-- ==== Sys2Proof/Word.lean ====
section
/-! DEFINITION. The word types of PQFE (00_scope.md R17): `u8` and `u16`. Every other value of the block is an
unbounded natural. -/

namespace Sys2Proof

/-- `u8` of 00_scope.md R17: a byte of the pixel input, of a transfer buffer, or an 8-bit operand. -/
abbrev U8 := BitVec 8

/-- `u16` of 00_scope.md R17: a 16-bit field of a wire record, or a packed color. -/
abbrev U16 := BitVec 16

end Sys2Proof
end

