-- ==== Sys2Proof/Syntax.lean ====
section
/-! DEFINITION. The instructions of PQFE: one constructor for each row of spec/opcode_table.json, and the inputs
the host presents to the block. -/

namespace Sys2Proof

/-- A transfer buffer index `b ∈ {0, 1}` (00_scope.md R11, `NUM_TB = 2`). -/
inductive BufId where
  | tb0
  | tb1
deriving DecidableEq, Repr

/-- One row of spec/opcode_table.json each. In a command, `q` is the requester that issues it and `b` the
context it names (30_encoding.md R67); in a wire record the fields are those of 30_encoding.md R56 to R59, less
the opcode and the mode byte, which are parameters. -/
inductive Instr where
  /-- START_OF_DATA, the 16-byte START record (30_encoding.md R56). -/
  | startOfData (d ox oy : U8) (w h : U16)
  /-- TRANSMIT_PIXELS, the IMAGE record of `4 + 2N` bytes (30_encoding.md R57). -/
  | transmitPixels (rl : U16) (colors : List U16)
  /-- BLIT_TRIGGER, the 4-byte BLIT record (30_encoding.md R58). -/
  | blitTrigger
  /-- END_OF_DATA, the 3-byte END record, `END_PAD = false` (30_encoding.md R59). -/
  | endOfData (d : U8)
  /-- END_OF_DATA_PAD, the 4-byte END record, `END_PAD = true` (30_encoding.md R59). -/
  | endOfDataPad (d : U8)
  /-- REPEAT_RUN, reserved device opcode with no value and no layout (30_encoding.md R66). -/
  | repeatRun
  /-- SKIP_RUN, reserved device opcode with no value and no layout (30_encoding.md R66). -/
  | skipRun
  /-- ACQUIRE (42_session_control.md R100). -/
  | acquire (q : Nat)
  /-- RELEASE (42_session_control.md R102). -/
  | release (q : Nat)
  /-- CLEAR b (42_session_control.md R103). -/
  | clear (q : Nat) (b : BufId)
  /-- START b, d, ox, oy, w, h (41_frame_encoder.md R84). -/
  | start (q : Nat) (b : BufId) (d ox oy : U8) (w h : U16)
  /-- IMAGE b, P (41_frame_encoder.md R87); `p` is the pixel input, of any length. -/
  | image (q : Nat) (b : BufId) (p : List U8)
  /-- BLIT b (41_frame_encoder.md R90). -/
  | blit (q : Nat) (b : BufId)
  /-- END b, d (41_frame_encoder.md R93). -/
  | endCmd (q : Nat) (b : BufId) (d : U8)
  /-- HANDOFF b (42_session_control.md R105). -/
  | handoff (q : Nat) (b : BufId)
  /-- QUANT r, g, bl, a (40_quantizer.md R76). -/
  | quant (q : Nat) (r g bl a : U8)
  /-- FRAME b, d, ox, oy, w, h, P, a pseudo-command (41_frame_encoder.md R96). -/
  | frame (q : Nat) (b : BufId) (d ox oy : U8) (w h : U16) (p : List U8)
  /-- SEND q, V, dL, dR, a pseudo-command (42_session_control.md R107). -/
  | send (q : Nat) (v : List U8) (dL dR : U8)
  /-- SEND1 q, P, d, ox, oy, w, h, a pseudo-command (42_session_control.md R109). -/
  | send1 (q : Nat) (p : List U8) (d ox oy : U8) (w h : U16)
deriving DecidableEq, Repr

/-- What a requester presents to the block, in one of the layers of 30_encoding.md R55. -/
inductive Transaction where
  /-- A command with typed operands, the block's own interface (30_encoding.md R67). -/
  | command (i : Instr)
  /-- A command in the assembler syntax of 30_encoding.md R68, with the named pixel inputs that its `@name`
  operands stand for. -/
  | line (text : List Char) (inputs : List (List Char × List U8))
  /-- The bytes of one wire record (30_encoding.md R56 to R60), first byte first. -/
  | wire (bytes : List U8)
deriving DecidableEq, Repr

/-- What the host does to the block: it presents a transaction, or drives the input `TRANSPORT_ATTACHED`
(00_scope.md R16). DESIGN CHOICE, log 3: a change of that input falls between two commands. -/
inductive HostInput where
  | present (t : Transaction)
  | attach (on : Bool)
deriving DecidableEq, Repr

/-- Why the decoder rejects a transaction: the operand or the record cannot be presented
(30_encoding.md R71). -/
inductive DecodeError where
  /-- An assembler line holds a character that R68 gives no use. -/
  | badCharacter
  /-- A token that begins with a digit is no decimal or `0x` hexadecimal number. -/
  | badNumber
  /-- An assembler line holds no command. -/
  | emptyLine
  /-- The line does not begin with a mnemonic of R67 or R70, after an optional requester. -/
  | badMnemonic
  /-- The operands are no comma-separated list of numbers and pixel inputs. -/
  | badOperand
  /-- The mnemonic does not take operands of this number and kind. -/
  | operandForm
  /-- An operand value is outside its type (R61, R67, R71). -/
  | operandRange
  /-- An `@name` operand names no pixel input of the transaction. -/
  | unknownInput
  /-- Fewer than two bytes: no opcode. -/
  | truncated
  /-- The first two bytes are none of the four opcodes (R62). -/
  | unknownOpcode
  /-- The record has another length than its opcode gives it (R64). -/
  | recordLength
  /-- The mode byte is not `MODE_BYTE` (R65). -/
  | modeByte
  /-- A reserved field is not zero (R65). -/
  | reservedNotZero
  /-- The display selector is not 0 or 1 (R56, R59). -/
  | selector
  /-- The run length is not `N div BLOCK_FACTOR` (R57, R63). -/
  | runLength
deriving DecidableEq, Repr

end Sys2Proof
end

