-- ==== Sys2Proof/Machine/Assembler.lean ====
section
/-! DEFINITION. The assembler syntax of 30_encoding.md R68, the only written form the spec gives a command: a
reader and a printer. No behaviour of the block depends on it (92_eei_decisions.md D28). What R68 leaves open
(spaces, letter case, where a list of plain bytes may stand) is fixed in log 12. -/

namespace Sys2Proof.Asm

open Sys2Proof

/-! ### Mnemonics -/

/-- The mnemonics of 30_encoding.md R67 and R70. -/
inductive Mn where
  | acquire | release | clear | start | image | blit | endCmd | handoff | quant | frame | send | send1
deriving DecidableEq, Repr

/-- The spelling of a mnemonic (30_encoding.md R67, R70). -/
def Mn.name : Mn → List Char
  | .acquire => ['A', 'C', 'Q', 'U', 'I', 'R', 'E']
  | .release => ['R', 'E', 'L', 'E', 'A', 'S', 'E']
  | .clear => ['C', 'L', 'E', 'A', 'R']
  | .start => ['S', 'T', 'A', 'R', 'T']
  | .image => ['I', 'M', 'A', 'G', 'E']
  | .blit => ['B', 'L', 'I', 'T']
  | .endCmd => ['E', 'N', 'D']
  | .handoff => ['H', 'A', 'N', 'D', 'O', 'F', 'F']
  | .quant => ['Q', 'U', 'A', 'N', 'T']
  | .frame => ['F', 'R', 'A', 'M', 'E']
  | .send => ['S', 'E', 'N', 'D']
  | .send1 => ['S', 'E', 'N', 'D', '1']

/-- Every mnemonic. -/
def Mn.all : List Mn :=
  [.acquire, .release, .clear, .start, .image, .blit, .endCmd, .handoff, .quant, .frame, .send, .send1]

/-- The mnemonic a word spells. -/
def Mn.ofName (w : List Char) : Option Mn :=
  Mn.all.find? (fun m => m.name = w)

/-! ### Numbers: decimal, or hexadecimal after `0x` -/

/-- The value of a decimal digit. -/
def decDigit (ch : Char) : Option Nat :=
  if '0'.toNat ≤ ch.toNat ∧ ch.toNat ≤ '9'.toNat then some (ch.toNat - '0'.toNat) else none

/-- The value of a hexadecimal digit, of either case. -/
def hexDigit (ch : Char) : Option Nat :=
  if '0'.toNat ≤ ch.toNat ∧ ch.toNat ≤ '9'.toNat then some (ch.toNat - '0'.toNat)
  else if 'a'.toNat ≤ ch.toNat ∧ ch.toNat ≤ 'f'.toNat then some (ch.toNat - 'a'.toNat + 10)
  else if 'A'.toNat ≤ ch.toNat ∧ ch.toNat ≤ 'F'.toNat then some (ch.toNat - 'A'.toNat + 10)
  else none

/-- Reads digits of a base, most significant first, onto the value read so far. -/
def readDigits (digit : Char → Option Nat) (base : Nat) : List Char → Nat → Option Nat
  | [], n => some n
  | ch :: rest, n =>
    match digit ch with
    | some k => readDigits digit base rest (n * base + k)
    | none => none

/-- Reads a number of 30_encoding.md R68. -/
def readNumber : List Char → Option Nat
  | [] => none
  | '0' :: 'x' :: [] => none
  | '0' :: 'x' :: rest => readDigits hexDigit 16 rest 0
  | cs => readDigits decDigit 10 cs 0

/-- The decimal digit of a number below 10. -/
def digitChar (k : Nat) : Char :=
  Char.ofNat ('0'.toNat + k % 10)

/-- The decimal digits of `n` in front of `acc`, with fuel for their number. -/
def decimalAux : Nat → Nat → List Char → List Char
  | 0, _, acc => acc
  | fuel + 1, n, acc =>
    if n < 10 then digitChar n :: acc else decimalAux fuel (n / 10) (digitChar n :: acc)

/-- The decimal digits of a number. -/
def decimal (n : Nat) : List Char :=
  decimalAux (n + 1) n []

/-! ### Tokens -/

/-- The tokens of an assembler line. -/
inductive Token where
  | word (w : List Char)
  | num (n : Nat)
  | comma
  | colon
  | lparen
  | rparen
  | lbrack
  | rbrack
  | at
deriving DecidableEq, Repr

/-- A letter, a digit or an underscore. -/
def atomChar (ch : Char) : Bool :=
  decide ('0'.toNat ≤ ch.toNat ∧ ch.toNat ≤ '9'.toNat) || decide ('A'.toNat ≤ ch.toNat ∧ ch.toNat ≤ 'Z'.toNat) ||
    decide ('a'.toNat ≤ ch.toNat ∧ ch.toNat ≤ 'z'.toNat) || ch == '_'

/-- The punctuation of 30_encoding.md R68. -/
def punctuation : Char → Option Token
  | ',' => some .comma
  | ':' => some .colon
  | '(' => some .lparen
  | ')' => some .rparen
  | '[' => some .lbrack
  | ']' => some .rbrack
  | '@' => some .at
  | _ => none

/-- The token that a run of letters and digits makes: a number where it begins with a digit, else a word. -/
def atomToken (cs : List Char) : Except DecodeError Token :=
  match cs with
  | [] => .error .badNumber
  | ch :: _ =>
    if (decDigit ch).isSome then
      match readNumber cs with
      | some n => .ok (.num n)
      | none => .error .badNumber
    else .ok (.word cs)

/-- Puts the token of the run read so far (kept last character first) in front of the later tokens. -/
def flush (acc : List Char) (later : List Token) : Except DecodeError (List Token) :=
  match acc with
  | [] => .ok later
  | _ :: _ =>
    match atomToken acc.reverse with
    | .ok t => .ok (t :: later)
    | .error e => .error e

/-- Cuts a line into tokens: `acc` is the run of letters and digits read so far, last character first. A `;`
starts a comment (30_encoding.md R68). -/
def lexFrom : List Char → List Char → Except DecodeError (List Token)
  | [], acc => flush acc []
  | ch :: rest, acc =>
    if atomChar ch then lexFrom rest (ch :: acc)
    else if ch = ';' then flush acc []
    else if ch = ' ' then
      match lexFrom rest [] with
      | .ok ts => flush acc ts
      | .error e => .error e
    else
      match punctuation ch, lexFrom rest [] with
      | some t, .ok ts => flush acc (t :: ts)
      | some _, .error e => .error e
      | none, _ => .error .badCharacter

/-- The tokens of an assembler line. -/
def lex (text : List Char) : Except DecodeError (List Token) :=
  lexFrom text []

/-! ### Operands -/

/-- An operand: a number or a pixel input. -/
inductive Operand where
  | num (n : Nat)
  | input (p : List U8)
deriving DecidableEq, Repr

/-- A number as a `u8`; another value cannot be presented (30_encoding.md R61, R71). -/
def asU8 (n : Nat) : Except DecodeError U8 :=
  if n < 256 then .ok (BitVec.ofNat 8 n) else .error .operandRange

/-- A number as a `u16`; another value cannot be presented (30_encoding.md R61, R71). -/
def asU16 (n : Nat) : Except DecodeError U16 :=
  if n < 65536 then .ok (BitVec.ofNat 16 n) else .error .operandRange

/-- A number as a buffer index, 0 or 1 (30_encoding.md R67). -/
def asBuf (n : Nat) : Except DecodeError BufId :=
  if n = 0 then .ok .tb0 else if n = 1 then .ok .tb1 else .error .operandRange

/-- Where the reader of a pixel list stands. -/
inductive ListAt where
  /-- Just after `[`. -/
  | opened
  /-- Before the `k`-th number of a tuple. -/
  | number (k : Nat)
  /-- After the `k`-th number of a tuple. -/
  | numbered (k : Nat)
  /-- After the `)` of a tuple. -/
  | tupled
  /-- After the `,` that follows a tuple. -/
  | nextTuple
  /-- After a plain byte of a list of bytes. -/
  | byte
  /-- After the `,` that follows a plain byte. -/
  | nextByte
deriving DecidableEq, Repr

/-- A byte in front of what the reader of a pixel list gives for the later tokens. -/
def consByte (n : Nat) (later : Except DecodeError (List U8 × List Token)) :
    Except DecodeError (List U8 × List Token) :=
  match asU8 n, later with
  | .ok v, .ok (bs, ts) => .ok (v :: bs, ts)
  | .error e, _ => .error e
  | .ok _, .error e => .error e

/-- Reads a pixel list after its `[`: 4-tuples `(r,g,b,a)` (30_encoding.md R68), or plain bytes (log 12). Answers
the bytes and the tokens after the `]`. -/
def readList : List Token → ListAt → Except DecodeError (List U8 × List Token)
  | .rbrack :: ts, .opened => .ok ([], ts)
  | .lparen :: ts, .opened => readList ts (.number 0)
  | .num n :: ts, .opened => consByte n (readList ts .byte)
  | .num n :: ts, .number k => consByte n (readList ts (.numbered k))
  | .comma :: ts, .numbered k => if k < 3 then readList ts (.number (k + 1)) else .error .badOperand
  | .rparen :: ts, .numbered k => if k = 3 then readList ts .tupled else .error .badOperand
  | .rbrack :: ts, .tupled => .ok ([], ts)
  | .comma :: ts, .tupled => readList ts .nextTuple
  | .lparen :: ts, .nextTuple => readList ts (.number 0)
  | .rbrack :: ts, .byte => .ok ([], ts)
  | .comma :: ts, .byte => readList ts .nextByte
  | .num n :: ts, .nextByte => consByte n (readList ts .byte)
  | _, _ => .error .badOperand

/-- Reads one operand; answers it and the tokens after it. -/
def readOperand (inputs : List (List Char × List U8)) : List Token → Except DecodeError (Operand × List Token)
  | .num n :: ts => .ok (.num n, ts)
  | .lbrack :: ts =>
    match readList ts .opened with
    | .ok (p, rest) => .ok (.input p, rest)
    | .error e => .error e
  | .at :: .word w :: ts =>
    match inputs.lookup w with
    | some p => .ok (.input p, ts)
    | none => .error .unknownInput
  | _ => .error .badOperand

/-- Reads one operand and those after each comma that follows; the fuel bounds their number. -/
def readMore (inputs : List (List Char × List U8)) : Nat → List Token → Except DecodeError (List Operand)
  | 0, _ => .error .badOperand
  | fuel + 1, ts =>
    match readOperand inputs ts with
    | .error e => .error e
    | .ok (o, []) => .ok [o]
    | .ok (o, .comma :: rest) =>
      match readMore inputs fuel rest with
      | .ok os => .ok (o :: os)
      | .error e => .error e
    | .ok (_, _ :: _) => .error .badOperand

/-- Reads the operands of a command, separated by commas (30_encoding.md R68). -/
def readOperands (inputs : List (List Char × List U8)) (ts : List Token) : Except DecodeError (List Operand) :=
  match ts with
  | [] => .ok []
  | _ :: _ => readMore inputs ts.length ts

/-- The command of a mnemonic, its requester and its operands, in the order of 30_encoding.md R67; the
pseudo-commands in the order of R96, R107 and R109 without `q`, which the requester in front of the mnemonic
gives (95_test_vectors.md W2). -/
def command (m : Mn) (q : Nat) (os : List Operand) : Except DecodeError Instr :=
  match m, os with
  | .acquire, [] => .ok (.acquire q)
  | .release, [] => .ok (.release q)
  | .clear, [.num b] => do return .clear q (← asBuf b)
  | .start, [.num b, .num d, .num ox, .num oy, .num w, .num h] => do
    return .start q (← asBuf b) (← asU8 d) (← asU8 ox) (← asU8 oy) (← asU16 w) (← asU16 h)
  | .image, [.num b, .input p] => do return .image q (← asBuf b) p
  | .blit, [.num b] => do return .blit q (← asBuf b)
  | .endCmd, [.num b, .num d] => do return .endCmd q (← asBuf b) (← asU8 d)
  | .handoff, [.num b] => do return .handoff q (← asBuf b)
  | .quant, [.num r, .num g, .num bl, .num a] => do return .quant q (← asU8 r) (← asU8 g) (← asU8 bl) (← asU8 a)
  | .frame, [.num b, .num d, .num ox, .num oy, .num w, .num h, .input p] => do
    return .frame q (← asBuf b) (← asU8 d) (← asU8 ox) (← asU8 oy) (← asU16 w) (← asU16 h) p
  | .send, [.input v, .num dL, .num dR] => do return .send q v (← asU8 dL) (← asU8 dR)
  | .send1, [.input p, .num d, .num ox, .num oy, .num w, .num h] => do
    return .send1 q p (← asU8 d) (← asU8 ox) (← asU8 oy) (← asU16 w) (← asU16 h)
  | _, _ => .error .operandForm

/-- The mnemonic and the operands of a line whose requester is known. -/
def readBody (inputs : List (List Char × List U8)) (q : Nat) : List Token → Except DecodeError Instr
  | .word w :: ts =>
    match Mn.ofName w, readOperands inputs ts with
    | some m, .ok os => command m q os
    | some _, .error e => .error e
    | none, _ => .error .badMnemonic
  | _ => .error .badMnemonic

/-- Reads an assembler line: an optional `q:` (default requester 0), the mnemonic, the operands
(30_encoding.md R68). -/
def readLine (text : List Char) (inputs : List (List Char × List U8)) : Except DecodeError Instr :=
  match lex text with
  | .error e => .error e
  | .ok [] => .error .emptyLine
  | .ok (.num q :: .colon :: ts) => readBody inputs q ts
  | .ok ts => readBody inputs 0 ts

/-! ### The printer -/

/-- A buffer index as a number. -/
def bufNum : BufId → Nat
  | .tb0 => 0
  | .tb1 => 1

/-- The mnemonic, requester and operands of a command; `none` for what is no command. -/
def parts : Instr → Option (Mn × Nat × List Operand)
  | .acquire q => some (.acquire, q, [])
  | .release q => some (.release, q, [])
  | .clear q b => some (.clear, q, [.num (bufNum b)])
  | .start q b d ox oy w h =>
    some (.start, q, [.num (bufNum b), .num d.toNat, .num ox.toNat, .num oy.toNat, .num w.toNat, .num h.toNat])
  | .image q b p => some (.image, q, [.num (bufNum b), .input p])
  | .blit q b => some (.blit, q, [.num (bufNum b)])
  | .endCmd q b d => some (.endCmd, q, [.num (bufNum b), .num d.toNat])
  | .handoff q b => some (.handoff, q, [.num (bufNum b)])
  | .quant q r g bl a => some (.quant, q, [.num r.toNat, .num g.toNat, .num bl.toNat, .num a.toNat])
  | .frame q b d ox oy w h p =>
    some (.frame, q,
      [.num (bufNum b), .num d.toNat, .num ox.toNat, .num oy.toNat, .num w.toNat, .num h.toNat, .input p])
  | .send q v dL dR => some (.send, q, [.input v, .num dL.toNat, .num dR.toNat])
  | .send1 q p d ox oy w h =>
    some (.send1, q, [.input p, .num d.toNat, .num ox.toNat, .num oy.toNat, .num w.toNat, .num h.toNat])
  | .startOfData _ _ _ _ _ => none
  | .transmitPixels _ _ => none
  | .blitTrigger => none
  | .endOfData _ => none
  | .endOfDataPad _ => none
  | .repeatRun => none
  | .skipRun => none

/-- The tokens of a list of plain bytes, up to and with its `]`. -/
def byteTokens : List U8 → List Token
  | [] => [.rbrack]
  | [v] => [.num v.toNat, .rbrack]
  | v :: rest => .num v.toNat :: .comma :: byteTokens rest

/-- The tokens of a list of 4-tuples, up to and with its `]`; the bytes are four to a pixel. -/
def tupleTokens : List U8 → List Token
  | r :: g :: bl :: a :: rest =>
    .lparen :: .num r.toNat :: .comma :: .num g.toNat :: .comma :: .num bl.toNat :: .comma :: .num a.toNat ::
      .rparen :: (match rest with
        | [] => [.rbrack]
        | _ :: _ => .comma :: tupleTokens rest)
  | _ => [.rbrack]

/-- The tokens of an operand: a pixel input is a list of 4-tuples, or a list of plain bytes where its length is
no multiple of 4. -/
def operandTokens : Operand → List Token
  | .num n => [.num n]
  | .input p => .lbrack :: (if p.length % 4 = 0 then tupleTokens p else byteTokens p)

/-- The tokens of operands, separated by commas. -/
def operandsTokens : List Operand → List Token
  | [] => []
  | [o] => operandTokens o
  | o :: os => operandTokens o ++ .comma :: operandsTokens os

/-- The characters of a token; a space follows a word, a comma and a colon. -/
def tokenChars : Token → List Char
  | .word w => w ++ [' ']
  | .num n => decimal n
  | .comma => [',', ' ']
  | .colon => [':', ' ']
  | .lparen => ['(']
  | .rparen => [')']
  | .lbrack => ['[']
  | .rbrack => [']']
  | .at => ['@']

/-- The tokens of a command's line, its requester in front (30_encoding.md R68). -/
def lineTokens (m : Mn) (q : Nat) (os : List Operand) : List Token :=
  .num q :: .colon :: .word m.name :: operandsTokens os

/-- The assembler line of a command (30_encoding.md R68); `none` for what is no command. -/
def printLine (i : Instr) : Option (List Char) :=
  (parts i).map fun (m, q, os) => (lineTokens m q os).flatMap tokenChars

end Sys2Proof.Asm
end

