-- ==== Sys2Proof/Config.lean ====
section
/-! DEFINITION. The parameters of 00_scope.md section 3, the test instantiations T1 and T2 of R18, and the free
values of the model (what 10_state.md R26 and 60_exceptions.md R121 leave unspecified). -/

namespace Sys2Proof

/-- `WIRE_ORDER` (00_scope.md R6). -/
inductive WireOrder where
  | be
  | le
deriving DecidableEq, Repr

/-- The parameters of 00_scope.md R6 to R14, fixed when the block is built (10_state.md R31). A model takes them
as an argument; here State carries them, and a statement about every state holds for every parameter value
(log 1). `halfW` and `height` are 16 bits wide because SEND gives them to FRAME, whose `w` and `h` are `u16`
(DEDUCED, log 16). -/
structure Config where
  /-- `WIRE_ORDER` (R6). -/
  wireOrder : WireOrder
  /-- `OP_START` (R7). -/
  opStart : U16
  /-- `OP_PIXEL` (R7). -/
  opPixel : U16
  /-- `OP_BLIT` (R7). -/
  opBlit : U16
  /-- `OP_END` (R7). -/
  opEnd : U16
  /-- `MODE_BYTE` (R8). -/
  modeByte : U8
  /-- `BLOCK_FACTOR`, at least 1 (R9). -/
  blockFactor : Nat
  /-- `END_PAD` (R10). -/
  endPad : Bool
  /-- `CAPACITY[0]` (R12). -/
  capacity0 : Nat
  /-- `CAPACITY[1]` (R12). -/
  capacity1 : Nat
  /-- `NUM_REQ`, at least 1 (R13). -/
  numReq : Nat
  /-- `HALF_W` (R14). -/
  halfW : U16
  /-- `H` (R14). -/
  height : U16
deriving DecidableEq, Repr

/-- What 70_reset_and_hazards.md R137 asks of the parameters: the four opcodes pairwise distinct (R7),
`BLOCK_FACTOR ≥ 1` (R9), `NUM_REQ ≥ 1` (R13). -/
def Config.wf (c : Config) : Bool :=
  decide ([c.opStart, c.opPixel, c.opBlit, c.opEnd].Nodup) && decide (1 ≤ c.blockFactor) && decide (1 ≤ c.numReq)

/-- Test instantiation `T1` of 00_scope.md R18, with the reference geometry of R14. Its values are arbitrary
test values, not device values (DESIGN CHOICE, log 1). -/
def Config.t1 : Config where
  wireOrder := .be
  opStart := 0xF001
  opPixel := 0xF002
  opBlit := 0xF003
  opEnd := 0xF004
  modeByte := 0xA5
  blockFactor := 1
  endPad := false
  capacity0 := 64
  capacity1 := 64
  numReq := 2
  halfW := 480
  height := 360

/-- Test instantiation `T2` of 00_scope.md R18: as `T1` but for the byte order, the block factor and the pad. -/
def Config.t2 : Config :=
  { Config.t1 with wireOrder := .le, blockFactor := 2, endPad := true }

/-- FREE VALUE, log 6: which cursor in `c0 .. CAPACITY[b]` the `n`-th BUFFER_OVERFLOW leaves
(60_exceptions.md R121). -/
opaque Free.cursor : Nat → Nat

/-- FREE VALUE, log 5: what a read of an unspecified byte at an offset gives, at the `n`-th free read
(10_state.md R26). -/
opaque Free.byte : Nat → Nat → U8

end Sys2Proof
end

