-- ==== Sys2Proof/Machine/Bytes.lean ====
section
/-! DEFINITION. Byte order (20_memory.md R44): `hi8`, `lo8` and `bytes16` of 00_scope.md R17, and their
inverses; the parameters read by buffer index, and the legal display selectors. -/

namespace Sys2Proof

/-- `CAPACITY[b]` (00_scope.md R12). -/
def Config.capacity (c : Config) : BufId → Nat
  | .tb0 => c.capacity0
  | .tb1 => c.capacity1

/-- `e` of 30_encoding.md R59: 1 if `END_PAD` else 0. -/
def Config.padLen (c : Config) : Nat :=
  if c.endPad then 1 else 0

/-- A display selector that a record may carry: 0 or 1 (30_encoding.md R56, R59). -/
def legalSelector (d : U8) : Bool :=
  d = 0 || d = 1

/-- `hi8(v) = v[15:8]` (00_scope.md R17). -/
def hi8 (v : U16) : U8 := v.extractLsb' 8 8

/-- `lo8(v) = v[7:0]` (00_scope.md R17). -/
def lo8 (v : U16) : U8 := v.extractLsb' 0 8

/-- `bytes16(v)`: the two bytes of a 16-bit field, lower offset first (20_memory.md R44). -/
def bytes16 (o : WireOrder) (v : U16) : List U8 :=
  match o with
  | .be => [hi8 v, lo8 v]
  | .le => [lo8 v, hi8 v]

/-- `u16(i)` of 30_encoding.md R73: the 16-bit value of two bytes read in `WIRE_ORDER`, lower offset first. -/
def word16 (o : WireOrder) (x y : U8) : U16 :=
  match o with
  | .be => (x ++ y : BitVec (8 + 8))
  | .le => (y ++ x : BitVec (8 + 8))

/-- The 16-bit values of a byte sequence, read in `WIRE_ORDER`; `none` where a byte is left over. -/
def words16 (o : WireOrder) : List U8 → Option (List U16)
  | [] => some []
  | x :: y :: rest => (words16 o rest).map (word16 o x y :: ·)
  | [_] => none

/-- The `n` bytes of the number `w`, most significant first: how opcode_table.json numbers the bits of a record
(its bit string is in wire order, so the record's first byte holds the highest bits). DEDUCED, log 13. -/
def bytesOfNat : Nat → Nat → List U8
  | 0, _ => []
  | n + 1, w => BitVec.ofNat 8 (w / 256 ^ n) :: bytesOfNat n w

end Sys2Proof
end

