-- ==== Sys2Proof/WellFormed.lean ====
section
/-! DEFINITION. Which instructions can be presented to, or stand in a frame of, a block with given parameters:
the constraints that the operand types of 30_encoding.md R67 do not already make. -/

namespace Sys2Proof

/-- A requester that exists: `0 .. NUM_REQ-1` (00_scope.md R13). -/
def legalRequester (c : Config) (q : Nat) : Bool :=
  decide (q < c.numReq)

/-- A command is well formed when its requester exists (00_scope.md R13; its other operands are typed). A wire
record is well formed when PQFE can write it under the parameters `c`: its selector is 0 or 1 (R56, R59), its
run length is `N div BLOCK_FACTOR` (R57, R63), and its END form is the one `END_PAD` selects (R59). The reserved
runs have no layout and are never written (R66), so none is well formed. -/
def Instr.wf (c : Config) : Instr → Bool
  | .startOfData d _ _ _ _ => legalSelector d
  | .transmitPixels rl colors => decide (rl.toNat = colors.length / c.blockFactor)
  | .blitTrigger => true
  | .endOfData d => legalSelector d && !c.endPad
  | .endOfDataPad d => legalSelector d && c.endPad
  | .repeatRun => false
  | .skipRun => false
  | .acquire q => legalRequester c q
  | .release q => legalRequester c q
  | .clear q _ => legalRequester c q
  | .start q _ _ _ _ _ _ => legalRequester c q
  | .image q _ _ => legalRequester c q
  | .blit q _ => legalRequester c q
  | .endCmd q _ _ => legalRequester c q
  | .handoff q _ => legalRequester c q
  | .quant q _ _ _ _ => legalRequester c q
  | .frame q _ _ _ _ _ _ _ => legalRequester c q
  | .send q _ _ _ => legalRequester c q
  | .send1 q _ _ _ _ _ _ => legalRequester c q

/-- Whether an instruction is a command or pseudo-command of 30_encoding.md R67 and R70, not a wire record or a
reserved device opcode. -/
def Instr.isCommand : Instr → Bool
  | .startOfData _ _ _ _ _ => false
  | .transmitPixels _ _ => false
  | .blitTrigger => false
  | .endOfData _ => false
  | .endOfDataPad _ => false
  | .repeatRun => false
  | .skipRun => false
  | .acquire _ => true
  | .release _ => true
  | .clear _ _ => true
  | .start _ _ _ _ _ _ _ => true
  | .image _ _ _ => true
  | .blit _ _ => true
  | .endCmd _ _ _ => true
  | .handoff _ _ => true
  | .quant _ _ _ _ _ => true
  | .frame _ _ _ _ _ _ _ _ => true
  | .send _ _ _ _ => true
  | .send1 _ _ _ _ _ _ _ => true

/-- The requester of a command; `none` for what is no command. -/
def Instr.requester : Instr → Option Nat
  | .startOfData _ _ _ _ _ => none
  | .transmitPixels _ _ => none
  | .blitTrigger => none
  | .endOfData _ => none
  | .endOfDataPad _ => none
  | .repeatRun => none
  | .skipRun => none
  | .acquire q => some q
  | .release q => some q
  | .clear q _ => some q
  | .start q _ _ _ _ _ _ => some q
  | .image q _ _ => some q
  | .blit q _ => some q
  | .endCmd q _ _ => some q
  | .handoff q _ => some q
  | .quant q _ _ _ _ => some q
  | .frame q _ _ _ _ _ _ _ => some q
  | .send q _ _ _ => some q
  | .send1 q _ _ _ _ _ _ => some q

end Sys2Proof
end

