-- ==== Sys2Proof/Decode.lean ====
section
/-! DEFINITION. The decoder, total on any transaction and rejecting by name, and the encoder. Wire records are
decoded from their bytes (30_encoding.md R56 to R59, R65), commands from their assembler line (R68): they have no
binary encoding (R55). Also R73's reading back of a whole frame. -/

namespace Sys2Proof

/-! ### The decoder -/

/-- The START record after its opcode (30_encoding.md R56). -/
def decodeStart (c : Config) : List U8 → Except DecodeError Instr
  | [d, m, z0, z1, z2, z3, z4, z5, ox, oy, w0, w1, h0, h1] =>
    if m ≠ c.modeByte then .error .modeByte
    else if [z0, z1, z2, z3, z4, z5] ≠ [0, 0, 0, 0, 0, 0] then .error .reservedNotZero
    else if legalSelector d then
      .ok (.startOfData d ox oy (word16 c.wireOrder w0 w1) (word16 c.wireOrder h0 h1))
    else .error .selector
  | _ => .error .recordLength

/-- The IMAGE record after its opcode (30_encoding.md R57): as many colors as bytes follow (R64), with the run
length they give. -/
def decodePixels (c : Config) : List U8 → Except DecodeError Instr
  | l0 :: l1 :: rest =>
    match words16 c.wireOrder rest with
    | none => .error .recordLength
    | some colors =>
      if (word16 c.wireOrder l0 l1).toNat = colors.length / c.blockFactor then
        .ok (.transmitPixels (word16 c.wireOrder l0 l1) colors)
      else .error .runLength
  | _ => .error .recordLength

/-- The BLIT record after its opcode (30_encoding.md R58). -/
def decodeBlit : List U8 → Except DecodeError Instr
  | [z0, z1] => if [z0, z1] = [0, 0] then .ok .blitTrigger else .error .reservedNotZero
  | _ => .error .recordLength

/-- The END record after its opcode (30_encoding.md R59), with its pad when `END_PAD`. -/
def decodeEnd (c : Config) (bytes : List U8) : Except DecodeError Instr :=
  match c.endPad, bytes with
  | false, [d] => if legalSelector d then .ok (.endOfData d) else .error .selector
  | true, [d, z] =>
    if z ≠ 0 then .error .reservedNotZero
    else if legalSelector d then .ok (.endOfDataPad d)
    else .error .selector
  | _, _ => .error .recordLength

/-- Decodes the bytes of one wire record; a record is told by its first two bytes (30_encoding.md R62). No other
opcode is decoded: the values of the repeat and skip runs are not in the source (R66). -/
def decodeRecord (c : Config) : List U8 → Except DecodeError Instr
  | o0 :: o1 :: rest =>
    let op := word16 c.wireOrder o0 o1
    if op = c.opStart then decodeStart c rest
    else if op = c.opPixel then decodePixels c rest
    else if op = c.opBlit then decodeBlit rest
    else if op = c.opEnd then decodeEnd c rest
    else .error .unknownOpcode
  | _ => .error .truncated

/-- Decodes a transaction of any layer of 30_encoding.md R55. -/
def decode (c : Config) : Transaction → Except DecodeError Instr
  | .command i => .ok i
  | .line text inputs => Asm.readLine text inputs
  | .wire bytes => decodeRecord c bytes

/-! ### The encoder -/

/-- The START record (30_encoding.md R56). -/
def startRecord (c : Config) (d ox oy : U8) (w h : U16) : List U8 :=
  bytes16 c.wireOrder c.opStart ++ [d, c.modeByte, 0, 0, 0, 0, 0, 0, ox, oy] ++ bytes16 c.wireOrder w ++
    bytes16 c.wireOrder h

/-- The IMAGE record (30_encoding.md R57). -/
def pixelRecord (c : Config) (rl : U16) (colors : List U16) : List U8 :=
  bytes16 c.wireOrder c.opPixel ++ bytes16 c.wireOrder rl ++ colors.flatMap (bytes16 c.wireOrder)

/-- The BLIT record (30_encoding.md R58). -/
def blitRecord (c : Config) : List U8 :=
  bytes16 c.wireOrder c.opBlit ++ [0, 0]

/-- The END record (30_encoding.md R59). -/
def endRecord (c : Config) (d : U8) : List U8 :=
  bytes16 c.wireOrder c.opEnd ++ d :: (if c.endPad then [0] else [])

/-- The bytes of a wire record; `none` for a command (30_encoding.md R55) and for the reserved runs (R66). An
END record exists only in the form that `END_PAD` selects. -/
def encodeRecord (c : Config) : Instr → Option (List U8)
  | .startOfData d ox oy w h => some (startRecord c d ox oy w h)
  | .transmitPixels rl colors => some (pixelRecord c rl colors)
  | .blitTrigger => some (blitRecord c)
  | .endOfData d => if c.endPad then none else some (endRecord c d)
  | .endOfDataPad d => if c.endPad then some (endRecord c d) else none
  | .repeatRun => none
  | .skipRun => none
  | .acquire _ => none
  | .release _ => none
  | .clear _ _ => none
  | .start _ _ _ _ _ _ _ => none
  | .image _ _ _ => none
  | .blit _ _ => none
  | .endCmd _ _ _ => none
  | .handoff _ _ => none
  | .quant _ _ _ _ _ => none
  | .frame _ _ _ _ _ _ _ _ => none
  | .send _ _ _ _ => none
  | .send1 _ _ _ _ _ _ _ => none

/-- Encodes an instruction: a command as its assembler line (30_encoding.md R68), a wire record as its bytes
(R56 to R59); `none` for the reserved runs, which have no layout (R66). -/
def encode (c : Config) (i : Instr) : Option Transaction :=
  match Asm.printLine i with
  | some text => some (.line text [])
  | none => (encodeRecord c i).map .wire

/-! ### The opcode table's numbering -/

/-- The transaction of an instruction whose bits are `w`, numbered as spec/opcode_table.json numbers them: the
table's bit string is in wire order, so the record's first byte holds the highest bits (log 13). -/
def tableTransaction (nbits w : Nat) : Transaction :=
  .wire (bytesOfNat (nbits / 8) w)

/-- The instruction the decoder reads from a word of the opcode table, under the parameters of the reset state
(`T1`, log 1). -/
def decodeTableWord (nbits w : Nat) : Option Instr :=
  match decode Config.t1 (tableTransaction nbits w) with
  | .ok i => some i
  | .error _ => none

/-! ### Reading a frame back (30_encoding.md R73) -/

/-- What `parse` of 30_encoding.md R73 returns: the START operands and the colors. -/
structure ParsedFrame where
  d : U8
  ox : U8
  oy : U8
  w : U16
  h : U16
  colors : List U16
deriving DecidableEq, Repr

/-- The bytes `off .. off+n-1` of a sequence. -/
def bytesAt (f : List U8) (off n : Nat) : List U8 :=
  (f.drop off).take n

/-- `parse(F)` of 30_encoding.md R73, record by record at the offsets R73 gives: START at 0, IMAGE at 16, BLIT at
`20 + 2N`, END at `24 + 2N`, with `N` from the length; `none` where a `require` fails. A test aid: no rule of the
block runs it. -/
def parseFrame (c : Config) (f : List U8) : Option ParsedFrame :=
  let n := (f.length - 27 - c.padLen) / 2
  if f.length = 27 + c.padLen + 2 * n then
    match decodeRecord c (bytesAt f 0 16), decodeRecord c (bytesAt f 16 (4 + 2 * n)),
      decodeRecord c (bytesAt f (20 + 2 * n) 4), decodeRecord c (bytesAt f (24 + 2 * n) (3 + c.padLen)) with
    | .ok (.startOfData d ox oy w h), .ok (.transmitPixels _ colors), .ok .blitTrigger, .ok (.endOfData d') =>
      if d' = d then some ⟨d, ox, oy, w, h, colors⟩ else none
    | .ok (.startOfData d ox oy w h), .ok (.transmitPixels _ colors), .ok .blitTrigger, .ok (.endOfDataPad d') =>
      if d' = d then some ⟨d, ox, oy, w, h, colors⟩ else none
    | _, _, _, _ => none
  else none

end Sys2Proof
end

