-- ==== Sys2Proof/Machine/State.lean ====
section
/-! DEFINITION. The state of PQFE as plain data: exactly the elements of 10_state.md R20, the parameters and the
host input of 00_scope.md R6 to R16, and four fields of the model's own (`reply`, `handedOff`,
`freeCount`, `pending`). -/

namespace Sys2Proof.Machine

/-- The encode stage of a context (10_state.md R22). -/
inductive Stage where
  | idle
  | headerWritten
  | pixelsWritten
  | blitIssued
  | closed
  | consumed
  | aborted
deriving DecidableEq, Repr

/-- The errors of 60_exceptions.md R115 (`NONE` is the absence of one). -/
inductive ErrorKind where
  | malformedBitmap
  | bufferOverflow
  | sequenceError
  | fieldRange
deriving DecidableEq, Repr

/-- The commands that can raise an error, as an `ERRLOG` entry names them (60_exceptions.md R115, R124). -/
inductive CommandName where
  | start
  | image
  | blit
  | endCmd
  | handoff
deriving DecidableEq, Repr

/-- Why a command is refused (60_exceptions.md R123). -/
inductive RefuseReason where
  | notOwner
  | midFrame
  | badSendInput
deriving DecidableEq, Repr

/-- The result of a command (30_encoding.md R69). -/
inductive Result where
  /-- `OK`. -/
  | ok
  /-- `OK` with the value of QUANT. -/
  | okValue (v : U16)
  /-- `GRANTED`, of ACQUIRE. -/
  | granted
  /-- `DROPPED`, of ACQUIRE. -/
  | dropped
  /-- `ERR(code)`. -/
  | err (e : ErrorKind)
  /-- `REFUSED(reason)`. -/
  | refused (r : RefuseReason)
deriving DecidableEq, Repr

/-- A result returned to the requester that issued the command (30_encoding.md R69). -/
structure Reply where
  requester : Nat
  result : Result
deriving DecidableEq, Repr

/-- An entry of `XFERLOG`: one transport write (10_state.md R29). -/
structure Transfer where
  buf : BufId
  bytes : List U8
deriving DecidableEq, Repr

/-- An entry of `ERRLOG`: one abort (60_exceptions.md R124). -/
structure AbortEntry where
  buf : BufId
  error : ErrorKind
  command : CommandName
deriving DecidableEq, Repr

/-- The contents of a transfer buffer: the bytes that have a value, by offset. An unlisted offset has no value:
the byte is unspecified (10_state.md R26, log 5). -/
abbrev Memory := List Host.Cell

/-- The state of one context (10_state.md R20, 00_scope.md R19). -/
structure Context where
  /-- `STAGE[b]` (R22). -/
  stage : Stage
  /-- `CURSOR[b]` (R23). -/
  cursor : Nat
  /-- `DISP[b]` (R24). -/
  disp : Option U8
  /-- `ERR[b]` (R25): `none` is the code 0. -/
  err : Option ErrorKind
  /-- `TB[b]` (R26). -/
  tb : Memory
deriving DecidableEq, Repr

/-- The state of PQFE. -/
structure State where
  /-- The parameters of 00_scope.md R6 to R14; no command writes them (10_state.md R20, log 1). -/
  cfg : Config
  /-- The host input `TRANSPORT_ATTACHED` (00_scope.md R16, log 3). -/
  transportAttached : Bool
  /-- `BUSY` (10_state.md R27). -/
  busy : Bool
  /-- `OWNER` (10_state.md R28). -/
  owner : Option Nat
  /-- Context 0. -/
  ctx0 : Context
  /-- Context 1. -/
  ctx1 : Context
  /-- `XFERLOG`, oldest entry first (10_state.md R29). -/
  xferLog : List Transfer
  /-- `ERRLOG`, oldest entry first (10_state.md R29). -/
  errLog : List AbortEntry
  /-- The mark `REFUSED` (10_state.md R30). -/
  refused : Bool
  /-- The model's own: what the last command returned, and to whom (30_encoding.md R69, log 7). -/
  reply : Option Reply
  /-- The model's own: the contexts handed off since the last granted ACQUIRE, oldest first, by which a session makes
  at most one transport write per context (42_session_control.md R106, log 20). -/
  handedOff : List BufId
  /-- The model's own: which free value comes next (log 6). -/
  freeCount : Nat
  /-- The model's own: what the host has still to present, in the total order of 20_memory.md R52 (log 4). -/
  pending : List HostInput
deriving DecidableEq, Repr

/-- Why the model stops with a fault. -/
inductive Fault where
  /-- HANDOFF would read its transfer buffer at an offset at or past `CAPACITY[b]`, which does not exist
  (20_memory.md R54). Only in states that no run reaches: `CURSOR[b]` never exceeds `CAPACITY[b]` (10_state.md
  R23). Safe (log 15). -/
  | outsideBuffer
deriving DecidableEq, Repr

/-- Why the model gives a step no meaning. (The spec's own refusals of 60_exceptions.md R123 are results of a
next state, not these: log 8.) -/
inductive Refusal where
  /-- An instruction of the opcode table that has no meaning yet; raised by `exec` alone. Safe. -/
  | notModelled (mnemonic : String)
  /-- A wire record as an instruction: it is read by the display device, whose behaviour the spec does not give
  (00_scope.md R4); no command reads a record (30_encoding.md R55). Raised by the five record meanings. Safe
  (log 9). -/
  | recordForDevice
  /-- The repeat or skip run as an instruction: neither its value nor its layout is in the source, and PQFE never
  writes it (30_encoding.md R66). Raised by the two reserved meanings. Safe (log 10). -/
  | reservedRun
  /-- `step` met a transaction that decodes to no instruction: it cannot be presented (30_encoding.md R71). Safe
  (log 14). -/
  | notPresentable (e : DecodeError)
  /-- `step` met an instruction that is not well formed, such as one of a requester that does not exist
  (00_scope.md R13): it cannot be presented (30_encoding.md R71). Safe (log 14). -/
  | illFormed
deriving DecidableEq, Repr

/-- A context after reset (10_state.md R22 to R26): `Idle`, empty, and no byte of its buffer specified. -/
def Context.reset : Context where
  stage := .idle
  cursor := 0
  disp := none
  err := none
  tb := []

/-- The state after reset (70_reset_and_hazards.md R135) of a block built with the parameters `c`, with
`TRANSPORT_ATTACHED` as given. The model's own fields are empty (log 4, log 6,
log 7, log 20). -/
def State.resetWith (c : Config) (attached : Bool) : State where
  cfg := c
  transportAttached := attached
  busy := false
  owner := none
  ctx0 := Context.reset
  ctx1 := Context.reset
  xferLog := []
  errLog := []
  refused := false
  reply := none
  handedOff := []
  freeCount := 0
  pending := []

/-- The machine right after reset, with the parameters of the test instantiation `T1` (00_scope.md R18):
DESIGN CHOICE, since the source gives the parameters no value (log 1, log 3). -/
def State.reset : State :=
  State.resetWith Config.t1 true

end Sys2Proof.Machine
end

