-- ==== Sys2Proof/Machine/Flags.lean ====
section
/-! DEFINITION. The flags of PQFE: `BUSY`, `STAGE[b]` and `ERR[b]` are the only ones (10_state.md R31); their
numeric codes, the reads of them that the rules make, and the update of a context. -/

namespace Sys2Proof.Machine

/-- The numeric value of a stage (10_state.md R22). -/
def Stage.code : Stage → Nat
  | .idle => 0
  | .headerWritten => 1
  | .pixelsWritten => 2
  | .blitIssued => 3
  | .closed => 4
  | .consumed => 5
  | .aborted => 6

/-- The code of an error (60_exceptions.md R115). -/
def ErrorKind.code : ErrorKind → Nat
  | .malformedBitmap => 1
  | .bufferOverflow => 2
  | .sequenceError => 3
  | .fieldRange => 4

/-- The number `ERR[b]` holds (10_state.md R25, 60_exceptions.md R115). -/
def errNumber : Option ErrorKind → Nat
  | none => 0
  | some e => e.code

/-- `HeaderWritten`, `PixelsWritten` or `BlitIssued`: a half-written frame (42_session_control.md R102). -/
def Stage.midFrame : Stage → Bool
  | .idle => false
  | .headerWritten => true
  | .pixelsWritten => true
  | .blitIssued => true
  | .closed => false
  | .consumed => false
  | .aborted => false

/-- The stages 1 to 4, in which an abort of another context makes a context `Aborted` (60_exceptions.md R121). -/
def Stage.inEncode : Stage → Bool
  | .idle => false
  | .headerWritten => true
  | .pixelsWritten => true
  | .blitIssued => true
  | .closed => true
  | .consumed => false
  | .aborted => false

/-- The other context. -/
def other : BufId → BufId
  | .tb0 => .tb1
  | .tb1 => .tb0

/-- Context `b` of a state. -/
def State.ctx (s : State) : BufId → Context
  | .tb0 => s.ctx0
  | .tb1 => s.ctx1

/-- The state with context `b` replaced. -/
def State.setCtx (s : State) (b : BufId) (k : Context) : State :=
  match b with
  | .tb0 => { s with ctx0 := k }
  | .tb1 => { s with ctx1 := k }

/-- `BUSY and OWNER = q`, the session check of 41_frame_encoder.md R83. -/
def State.holdsSession (s : State) (q : Nat) : Bool :=
  s.busy && decide (s.owner = some q)

/-- Whether some context holds a half-written frame (42_session_control.md R102). -/
def State.anyMidFrame (s : State) : Bool :=
  s.ctx0.stage.midFrame || s.ctx1.stage.midFrame

/-- The result the last command returned (30_encoding.md R69). -/
def State.lastResult (s : State) : Option Result :=
  s.reply.map Reply.result

end Sys2Proof.Machine
end

