-- ==== Sys2Proof/Machine/Operands.lean ====
section
/-! DEFINITION. The operand forms: the pixel input and its pixels (20_memory.md R35, R41), the packed color
(40_quantizer.md R76), the halves of a virtual bitmap (42_session_control.md R108), and the reference sizes
(20_memory.md R49, R50). -/

namespace Sys2Proof.Machine

/-- `InRead(P, i)`: byte `i` of the pixel input; called only with `i < len(P)` (20_memory.md R41). -/
def inRead (p : List U8) (i : Nat) : U8 :=
  p.getD i 0

/-- The 17-bit value `c` of 40_quantizer.md R76, before it is cut to 16 bits. -/
def quantWide (r g bl : U8) : Nat :=
  (r.toNat / 7) ||| ((g.toNat / 3) <<< 6) ||| ((bl.toNat / 7) <<< 11)

/-- The packed color of a pixel (40_quantizer.md R76); the alpha byte has no effect (R77). -/
def quantize (r g bl _a : U8) : U16 :=
  BitVec.ofNat 16 (quantWide r g bl)

/-- The color of pixel `k` of a pixel input (20_memory.md R35, 41_frame_encoder.md R87). -/
def pixelColor (p : List U8) (k : Nat) : U16 :=
  quantize (inRead p (4 * k)) (inRead p (4 * k + 1)) (inRead p (4 * k + 2)) (inRead p (4 * k + 3))

/-- `N`, the pixel count of a pixel input (30_encoding.md R63). -/
def pixelCount (p : List U8) : Nat :=
  p.length / 4

/-- The colors of a pixel input in increasing pixel number (20_memory.md R36). -/
def pixelColors (p : List U8) : List U16 :=
  (List.range (pixelCount p)).map (pixelColor p)

/-- `RL = N div BLOCK_FACTOR` (30_encoding.md R63). -/
def runLength (c : Config) (p : List U8) : Nat :=
  pixelCount p / c.blockFactor

/-- One half of a virtual bitmap of width `2·HALF_W` and height `H`, the columns from `x0` on, row by row
(42_session_control.md R108). -/
def halfFrom (c : Config) (x0 : Nat) (v : List U8) : List U8 :=
  (List.range c.height.toNat).flatMap fun y =>
    (v.drop (4 * (y * (2 * c.halfW.toNat) + x0))).take (4 * c.halfW.toNat)

/-- `left(V)` (42_session_control.md R108). -/
def leftHalf (c : Config) (v : List U8) : List U8 :=
  halfFrom c 0 v

/-- `right(V)` (42_session_control.md R108). -/
def rightHalf (c : Config) (v : List U8) : List U8 :=
  halfFrom c c.halfW.toNat v

/-- The length a virtual bitmap must have: `2·HALF_W·H·4` (42_session_control.md R107). -/
def virtualLength (c : Config) : Nat :=
  2 * c.halfW.toNat * c.height.toNat * 4

/-- The exact length of a frame of `n` pixels: `27 + e + 2N` (20_memory.md R50). -/
def frameLength (c : Config) (n : Nat) : Nat :=
  27 + c.padLen + 2 * n

/-- `CAP_ref(N)`, the reference capacity of 20_memory.md R49; no rule of the block reads it. -/
def capRef (c : Config) (n : Nat) : Nat :=
  (3 + c.padLen) + 2 * n + 8 * ((2 * n + 23) / 24)

end Sys2Proof.Machine
end

