-- ==== Sys2Proof/Machine/Ops.lean ====
section
/-! DEFINITION. The shared operations: the bytes of a transfer buffer, the puts (20_memory.md R47), the session
check, the refusal (60_exceptions.md R123), the abort procedure (R121), and the sequencing of a pseudo-command. -/

namespace Sys2Proof.Machine

/-- The outcome of a command. -/
abbrev Outcome := Host.Outcome State Fault Refusal

/-! ### The bytes of a transfer buffer -/

/-- The value of the byte at an offset; `none` where it is unspecified (10_state.md R26, log 5). -/
def Memory.read : Memory → Nat → Option U8
  | [], _ => none
  | (k, v) :: m, a => if a = k then some v else Memory.read m a

/-- Writes one byte, keeping the offsets strictly rising. -/
def Memory.write : Memory → Nat → U8 → Memory
  | [], a, v => [(a, v)]
  | (k, w) :: m, a, v =>
    if a < k then (a, v) :: (k, w) :: m
    else if a = k then (a, v) :: m
    else (k, w) :: Memory.write m a v

/-- `MemWrite(TB_b, off, n, s)` (00_scope.md R17): the bytes at `off`, `off + 1`, … -/
def Memory.writeBytes : Memory → Nat → List U8 → Memory
  | m, _, [] => m
  | m, off, v :: vs => Memory.writeBytes (m.write off v) (off + 1) vs

/-- The bytes at offsets from `off` on become unspecified (60_exceptions.md R121). -/
def Memory.dropFrom (m : Memory) (off : Nat) : Memory :=
  m.filter (fun cell => decide (cell.1 < off))

/-- The canonical form: offsets strictly rising. No entry can equal what an unlisted offset reads as, since that
is no value. -/
def Memory.wf : Memory → Bool
  | [] => true
  | [_] => true
  | (k, _) :: (k', v') :: m => decide (k < k') && Memory.wf ((k', v') :: m)

/-! ### The puts -/

/-- `MemWrite` at the cursor, which advances by the number of bytes (20_memory.md R47). -/
def Context.putBytes (k : Context) (bs : List U8) : Context :=
  { k with tb := k.tb.writeBytes k.cursor bs, cursor := k.cursor + bs.length }

/-- `put8(b, v)` (20_memory.md R47). -/
def Context.put8 (k : Context) (v : U8) : Context :=
  k.putBytes [v]

/-- `put16(b, v)` (20_memory.md R47), in the byte order of R44. -/
def Context.put16 (k : Context) (o : WireOrder) (v : U16) : Context :=
  k.putBytes (bytes16 o v)

/-- `put16` of each color in order, the loop of 41_frame_encoder.md R87. -/
def Context.putColors (k : Context) (o : WireOrder) (colors : List U16) : Context :=
  colors.foldl (fun k' v => k'.put16 o v) k

/-- The bound check for a record of `n` bytes: `CURSOR[b] + n ≤ CAPACITY[b]` (20_memory.md R48). -/
def State.fits (s : State) (b : BufId) (n : Nat) : Bool :=
  decide ((s.ctx b).cursor + n ≤ s.cfg.capacity b)

/-! ### Results, refusals and the session check -/

/-- The command ends with a result returned to its requester (30_encoding.md R69). -/
def finish (q : Nat) (r : Result) (s : State) : Outcome :=
  .next { s with reply := some ⟨q, r⟩ }

/-- `refuse(reason)`: nothing of the block changes; the mark `REFUSED` is set and `REFUSED(reason)` returned
(60_exceptions.md R123). A next state of the model (log 8). -/
def refuse (q : Nat) (r : RefuseReason) (s : State) : Outcome :=
  finish q (.refused r) { s with refused := true }

/-- `session_check(q)`, then the rest of the command (41_frame_encoder.md R83). -/
def withSession (q : Nat) (s : State) (rest : Outcome) : Outcome :=
  if s.holdsSession q then rest else refuse q .notOwner s

/-! ### The abort procedure -/

/-- A context made `Aborted` by another context's error: stages 1 to 4 only; bytes, cursor and `ERR` stay
(60_exceptions.md R121, 90_conflicts.md C11, C12). -/
def Context.abortOther (k : Context) : Context :=
  if k.stage.inEncode then { k with stage := .aborted } else k

/-- The failing context: the first error is kept, the stage becomes `Aborted` (60_exceptions.md R121). -/
def Context.abortSelf (k : Context) (e : ErrorKind) : Context :=
  { k with stage := .aborted, err := if k.err = none then some e else k.err }

/-- What BUFFER_OVERFLOW leaves open in the failing context: the bytes from the cursor `c0` on become unspecified,
and the cursor becomes a FREE VALUE in `c0 .. CAPACITY[b]` (60_exceptions.md R121, log 6). -/
def Context.overflowed (k : Context) (cap n : Nat) : Context :=
  { k with tb := k.tb.dropFrom k.cursor, cursor := k.cursor + Free.cursor n % (cap - k.cursor + 1) }

/-- The state in which the abort procedure starts: as it is, but after BUFFER_OVERFLOW with the failing buffer's
tail and cursor left open (60_exceptions.md R121). -/
def State.beforeAbort (s : State) (b : BufId) (e : ErrorKind) : State :=
  if e = .bufferOverflow then
    { s.setCtx b ((s.ctx b).overflowed (s.cfg.capacity b) s.freeCount) with freeCount := s.freeCount + 1 }
  else s

/-- `abort(b, E, cmd)` of 60_exceptions.md R121 on the state: the failing context and every other context in
stages 1 to 4 become `Aborted`, the session is released, the abort is logged. -/
def State.abort (s : State) (b : BufId) (e : ErrorKind) (cmd : CommandName) : State :=
  let s1 := s.beforeAbort b e
  let s2 := s1.setCtx b ((s1.ctx b).abortSelf e)
  let s3 := s2.setCtx (other b) ((s2.ctx (other b)).abortOther)
  { s3 with busy := false, owner := none, errLog := s3.errLog ++ [⟨b, e, cmd⟩] }

/-- `raise E(b)` inside command `cmd` of requester `q`: the abort procedure, in one step with the command, and
the result `ERR(code)` (60_exceptions.md R121, R124). -/
def raise (q : Nat) (b : BufId) (e : ErrorKind) (cmd : CommandName) (s : State) : Outcome :=
  finish q (.err e) (s.abort b e cmd)

/-- A new session's way out of an abort (60_exceptions.md R126; there is no return from trap): context `b` emptied
for a new frame, every byte of its buffer unspecified (42_session_control.md R103). -/
def Context.cleared (_k : Context) : Context :=
  Context.reset

/-! ### Sequencing -/

/-- Runs `f` in the next state of an outcome. -/
def andThen (o : Outcome) (f : State → Outcome) : Outcome :=
  match o with
  | .next s => f s
  | .fault r => .fault r
  | .refused r => .refused r

/-- `if res != OK: return res` (41_frame_encoder.md R96): runs `f` only where the command before returned `OK`. -/
def ifOk (o : Outcome) (f : State → Outcome) : Outcome :=
  andThen o fun s => if s.lastResult = some .ok then f s else .next s

/-- `if (q: ACQUIRE) = DROPPED: return DROPPED` (42_session_control.md R107, R109). -/
def unlessDropped (o : Outcome) (f : State → Outcome) : Outcome :=
  andThen o fun s => if s.lastResult = some .dropped then .next s else f s

end Sys2Proof.Machine
end

