-- ==== Sys2Proof/Machine/Encoder.lean ====
section
/-! DEFINITION. The encoder commands START, IMAGE, BLIT, END (41_frame_encoder.md). The checks stand in the order
of 60_exceptions.md R122. -/

namespace Sys2Proof.Machine

/-- The puts of START, the selector latched, the stage (41_frame_encoder.md R84). -/
def Context.writeStart (k : Context) (c : Config) (d ox oy : U8) (w h : U16) : Context :=
  let o := c.wireOrder
  let k1 := ((k.put16 o c.opStart).put8 d).put8 c.modeByte
  let k2 := ((k1.put16 o 0).put16 o 0).put16 o 0
  let k3 := (k2.put8 ox).put8 oy
  let k4 := (k3.put16 o w).put16 o h
  { k4 with disp := some d, stage := .headerWritten }

/-- START (41_frame_encoder.md R84 to R86). -/
def execStart (q : Nat) (b : BufId) (d ox oy : U8) (w h : U16) (s : State) : Outcome :=
  withSession q s <|
    if (s.ctx b).stage ≠ .idle then raise q b .sequenceError .start s
    else if !legalSelector d then raise q b .fieldRange .start s
    else if !s.fits b 16 then raise q b .bufferOverflow .start s
    else finish q .ok (s.setCtx b ((s.ctx b).writeStart s.cfg d ox oy w h))

/-- The puts of IMAGE and the stage (41_frame_encoder.md R87). -/
def Context.writeImage (k : Context) (c : Config) (p : List U8) : Context :=
  let o := c.wireOrder
  let k1 := (k.put16 o c.opPixel).put16 o (BitVec.ofNat 16 (runLength c p))
  { k1.putColors o (pixelColors p) with stage := .pixelsWritten }

/-- IMAGE (41_frame_encoder.md R87 to R89). -/
def execImage (q : Nat) (b : BufId) (p : List U8) (s : State) : Outcome :=
  withSession q s <|
    if (s.ctx b).stage ≠ .headerWritten then raise q b .sequenceError .image s
    else if p.length % 4 ≠ 0 then raise q b .malformedBitmap .image s
    else if runLength s.cfg p > 0xFFFF then raise q b .fieldRange .image s
    else if !s.fits b (4 + 2 * pixelCount p) then raise q b .bufferOverflow .image s
    else finish q .ok (s.setCtx b ((s.ctx b).writeImage s.cfg p))

/-- The puts of BLIT and the stage (41_frame_encoder.md R90). -/
def Context.writeBlit (k : Context) (c : Config) : Context :=
  { (k.put16 c.wireOrder c.opBlit).put16 c.wireOrder 0 with stage := .blitIssued }

/-- BLIT (41_frame_encoder.md R90, R91). -/
def execBlit (q : Nat) (b : BufId) (s : State) : Outcome :=
  withSession q s <|
    if (s.ctx b).stage ≠ .pixelsWritten then raise q b .sequenceError .blit s
    else if !s.fits b 4 then raise q b .bufferOverflow .blit s
    else finish q .ok (s.setCtx b ((s.ctx b).writeBlit s.cfg))

/-- The puts of END and the stage (41_frame_encoder.md R93). -/
def Context.writeEnd (k : Context) (c : Config) (d : U8) : Context :=
  let k1 := (k.put16 c.wireOrder c.opEnd).put8 d
  { (if c.endPad then k1.put8 0 else k1) with stage := .closed }

/-- END (41_frame_encoder.md R93, R94). -/
def execEnd (q : Nat) (b : BufId) (d : U8) (s : State) : Outcome :=
  withSession q s <|
    if (s.ctx b).stage ≠ .blitIssued then raise q b .sequenceError .endCmd s
    else if !legalSelector d || decide ((s.ctx b).disp ≠ some d) then raise q b .fieldRange .endCmd s
    else if !s.fits b (3 + s.cfg.padLen) then raise q b .bufferOverflow .endCmd s
    else finish q .ok (s.setCtx b ((s.ctx b).writeEnd s.cfg d))

end Sys2Proof.Machine
end

