-- ==== Sys2Proof/Machine/Session.lean ====
section
/-! DEFINITION. Session and buffer control: ACQUIRE, RELEASE, CLEAR, HANDOFF (42_session_control.md). -/

namespace Sys2Proof.Machine

/-- ACQUIRE (42_session_control.md R100): the atomic test-and-set of `BUSY`; a drop changes nothing of the block
(60_exceptions.md R120). A session begins with nothing handed off (R106, log 20). -/
def execAcquire (q : Nat) (s : State) : Outcome :=
  if !s.transportAttached then finish q .dropped s
  else if s.busy then finish q .dropped s
  else finish q .granted { s with busy := true, owner := some q, handedOff := [] }

/-- RELEASE (42_session_control.md R102). -/
def execRelease (q : Nat) (s : State) : Outcome :=
  withSession q s <|
    if s.anyMidFrame then refuse q .midFrame s
    else finish q .ok { s with busy := false, owner := none }

/-- CLEAR (42_session_control.md R103, R104). -/
def execClear (q : Nat) (b : BufId) (s : State) : Outcome :=
  withSession q s <|
    if (s.ctx b).stage.midFrame then refuse q .midFrame s
    else finish q .ok (s.setCtx b (s.ctx b).cleared)

/-- The byte HANDOFF reads at an offset of a context: its value, or a FREE VALUE where it is unspecified
(10_state.md R26, log 5). -/
def Context.byteAt (k : Context) (n a : Nat) : U8 :=
  (k.tb.read a).getD (Free.byte n a)

/-- `TB[b][0 .. CURSOR[b]-1]` (42_session_control.md R105). -/
def Context.frameBytes (k : Context) (n : Nat) : List U8 :=
  (List.range k.cursor).map (k.byteAt n)

/-- A context after HANDOFF: `Consumed`, every byte of its buffer unspecified (10_state.md R22, R26). -/
def Context.consume (k : Context) : Context :=
  { k with stage := .consumed, tb := [] }

/-- HANDOFF (42_session_control.md R105): one transport write, whose result is neither awaited nor returned. A session
makes 'at most one per context' (R106), so a context that this session handed off already is not sent again, whatever
was written into it since; that such a HANDOFF raises SEQUENCE_ERROR, as one 'already handed-off' does in R105, is the
model's choice (DESIGN CHOICE, log 20). -/
def execHandoff (q : Nat) (b : BufId) (s : State) : Outcome :=
  withSession q s <|
    if (s.ctx b).stage ≠ .closed ∨ b ∈ s.handedOff then raise q b .sequenceError .handoff s
    else if s.cfg.capacity b < (s.ctx b).cursor then .fault .outsideBuffer
    else finish q .ok
      { s.setCtx b (s.ctx b).consume with
        xferLog := s.xferLog ++ [⟨b, (s.ctx b).frameBytes s.freeCount⟩]
        handedOff := s.handedOff ++ [b]
        freeCount := s.freeCount + 1 }

end Sys2Proof.Machine
end

