-- ==== Sys2Proof/Machine/Pseudo.lean ====
section
/-! DEFINITION. The pseudo-commands FRAME, SEND and SEND1: each stands for the command sequence its rule gives,
issued back to back by its requester (41_frame_encoder.md R96, 42_session_control.md R107, R109). A sequence with
other requesters' commands in between is that sequence of commands in the input queue (log 11). -/

namespace Sys2Proof.Machine

/-- FRAME (41_frame_encoder.md R96): START, IMAGE, BLIT, END, stopping at the first result that is not `OK`. -/
def execFrame (q : Nat) (b : BufId) (d ox oy : U8) (w h : U16) (p : List U8) (s : State) : Outcome :=
  ifOk (execStart q b d ox oy w h s) fun s1 =>
    ifOk (execImage q b p s1) fun s2 =>
      ifOk (execBlit q b s2) (execEnd q b d)

/-- CLEAR b, then FRAME b from origin `(0, 0)`: one pass of SEND's loop (42_session_control.md R107). -/
def sendHalf (q : Nat) (b : BufId) (d : U8) (p : List U8) (s : State) : Outcome :=
  andThen (execClear q b s) fun s1 => execFrame q b d 0 0 s1.cfg.halfW s1.cfg.height p s1

/-- SEND (42_session_control.md R107): both halves encoded, buffer 0 first, then both handed off, then the
session released. -/
def execSend (q : Nat) (v : List U8) (dL dR : U8) (s : State) : Outcome :=
  if v.length ≠ virtualLength s.cfg then refuse q .badSendInput s
  else
    unlessDropped (execAcquire q s) fun s1 =>
      ifOk (sendHalf q .tb0 dL (leftHalf s.cfg v) s1) fun s2 =>
        ifOk (sendHalf q .tb1 dR (rightHalf s.cfg v) s2) fun s3 =>
          andThen (execHandoff q .tb0 s3) fun s4 =>
            andThen (execHandoff q .tb1 s4) fun s5 =>
              andThen (execRelease q s5) (finish q .ok)

/-- SEND1 (42_session_control.md R109): the single-buffer send, through buffer 0. -/
def execSend1 (q : Nat) (p : List U8) (d ox oy : U8) (w h : U16) (s : State) : Outcome :=
  unlessDropped (execAcquire q s) fun s1 =>
    andThen (execClear q .tb0 s1) fun s2 =>
      ifOk (execFrame q .tb0 d ox oy w h p s2) fun s3 =>
        andThen (execHandoff q .tb0 s3) fun s4 =>
          andThen (execRelease q s4) (finish q .ok)

end Sys2Proof.Machine
end

