-- ==== Sys2Proof/Machine/Quantizer.lean ====
section
/-! DEFINITION. QUANT (40_quantizer.md). -/

namespace Sys2Proof.Machine

/-- QUANT (40_quantizer.md R76, R81): returns `OK` with the packed color; needs no session (90_conflicts.md C10),
reads and writes no state. -/
def execQuant (q : Nat) (r g bl a : U8) (s : State) : Outcome :=
  finish q (.okValue (quantize r g bl a)) s

end Sys2Proof.Machine
end

