-- ==== Sys2Proof/Machine/Records.lean ====
section
/-! DEFINITION. The wire records and the reserved runs as instructions. A record is output of the block: a command
writes it, no command reads it (30_encoding.md R55), and a command is one of R67 or cannot be presented (R71). What
reads it is the display device, whose behaviour is out of scope (00_scope.md R4, 93_implementation_defined.md I30).
So each stops by name (log 9, log 10). What the spec does give a record, its layout, is in Decode.lean and in the
puts of the command that writes it. -/

namespace Sys2Proof.Machine

/-- START_OF_DATA (30_encoding.md R56) acts on the display device only. -/
def execStartOfData (_d _ox _oy : U8) (_w _h : U16) (_s : State) : Outcome :=
  .refused .recordForDevice

/-- TRANSMIT_PIXELS (30_encoding.md R57) acts on the display device only. -/
def execTransmitPixels (_rl : U16) (_colors : List U16) (_s : State) : Outcome :=
  .refused .recordForDevice

/-- BLIT_TRIGGER (30_encoding.md R58) acts on the display device only (41_frame_encoder.md R91). -/
def execBlitTrigger (_s : State) : Outcome :=
  .refused .recordForDevice

/-- END_OF_DATA (30_encoding.md R59) acts on the display device only. -/
def execEndOfData (_d : U8) (_s : State) : Outcome :=
  .refused .recordForDevice

/-- END_OF_DATA_PAD (30_encoding.md R59) acts on the display device only. -/
def execEndOfDataPad (_d : U8) (_s : State) : Outcome :=
  .refused .recordForDevice

/-- REPEAT_RUN (30_encoding.md R66): neither value nor layout in the source, never written. -/
def execRepeatRun (_s : State) : Outcome :=
  .refused .reservedRun

/-- SKIP_RUN (30_encoding.md R66): neither value nor layout in the source, never written. -/
def execSkipRun (_s : State) : Outcome :=
  .refused .reservedRun

end Sys2Proof.Machine
end

