-- ==== Sys2Proof/Machine/Dispatch.lean ====
section
/-! DEFINITION. One arm per row of the opcode table. -/

namespace Sys2Proof.Machine

/-- The meaning of an instruction (30_encoding.md R67, R70). -/
def exec (i : Instr) (s : State) : Host.Outcome State Fault Refusal :=
  match i with
  | .startOfData d ox oy w h => Sys2Proof.Machine.execStartOfData d ox oy w h s
  | .transmitPixels rl colors => Sys2Proof.Machine.execTransmitPixels rl colors s
  | .blitTrigger => Sys2Proof.Machine.execBlitTrigger s
  | .endOfData d => Sys2Proof.Machine.execEndOfData d s
  | .endOfDataPad d => Sys2Proof.Machine.execEndOfDataPad d s
  | .repeatRun => Sys2Proof.Machine.execRepeatRun s
  | .skipRun => Sys2Proof.Machine.execSkipRun s
  | .acquire q => Sys2Proof.Machine.execAcquire q s
  | .release q => Sys2Proof.Machine.execRelease q s
  | .clear q b => Sys2Proof.Machine.execClear q b s
  | .start q b d ox oy w h => Sys2Proof.Machine.execStart q b d ox oy w h s
  | .image q b p => Sys2Proof.Machine.execImage q b p s
  | .blit q b => Sys2Proof.Machine.execBlit q b s
  | .endCmd q b d => Sys2Proof.Machine.execEnd q b d s
  | .handoff q b => Sys2Proof.Machine.execHandoff q b s
  | .quant q r g bl a => Sys2Proof.Machine.execQuant q r g bl a s
  | .frame q b d ox oy w h p => Sys2Proof.Machine.execFrame q b d ox oy w h p s
  | .send q v dL dR => Sys2Proof.Machine.execSend q v dL dR s
  | .send1 q p d ox oy w h => Sys2Proof.Machine.execSend1 q p d ox oy w h s

end Sys2Proof.Machine
end

