-- ==== Sys2Proof/Machine/Fetch.lean ====
section
/-! DEFINITION. How a command reaches the block: PQFE fetches nothing from memory (20_memory.md R39); the host
presents transactions in one total order (R52), the model's field `pending` (log 4). -/

namespace Sys2Proof.Machine

/-- The instruction a transaction presents to a block with these parameters: it must decode, and be well formed
(30_encoding.md R71, log 14). -/
def presented (c : Config) (t : Transaction) : Except Refusal Instr :=
  match decode c t with
  | .error e => .error (.notPresentable e)
  | .ok i => if i.wf c then .ok i else .error .illFormed

/-- The state after the first pending input is taken. -/
def State.taken (s : State) : State :=
  { s with pending := s.pending.tail }

/-- The host drives `TRANSPORT_ATTACHED` (00_scope.md R16, log 3); nothing else changes. -/
def State.attach (s : State) (on : Bool) : State :=
  { s with transportAttached := on }

/-- The state with a transaction placed in front of the pending inputs. -/
def State.presentNext (s : State) (t : Transaction) : State :=
  { s with pending := .present t :: s.pending }

end Sys2Proof.Machine
end

