-- ==== Sys2Proof/Machine/Step.lean ====
section
/-! DEFINITION. One step of the machine: one host input taken from the queue (00_scope.md R5, 20_memory.md R51). -/

namespace Sys2Proof.Machine

/-- One step: with nothing pending the block does nothing (no command, no change); a change of
`TRANSPORT_ATTACHED` is the host's (00_scope.md R16); a transaction is decoded and its instruction executed. -/
def step (s : State) : Host.Outcome State Fault Refusal :=
  match s.pending with
  | [] => .next s
  | .attach on :: _ => .next (s.taken.attach on)
  | .present t :: _ =>
    match presented s.cfg t with
    | .ok i => exec i s.taken
    | .error r => .refused r

/-- `s` with the instruction of a table word presented next (log 13). -/
def State.withFetchWord (s : State) (nbits w : Nat) : State :=
  s.presentNext (tableTransaction nbits w)

end Sys2Proof.Machine
end

