-- ==== Sys2Proof/Safety.lean ====
section
/-! DEFINITION. What counts as a sound state of PQFE, in the terms the statements use: the invariants that the
rules of spec/ state or imply. -/

namespace Sys2Proof.Machine

/-- The memory that holds exactly the bytes `bs` at the offsets `0, 1, …`. -/
def Memory.ofBytes (bs : List U8) : Memory :=
  Memory.writeBytes [] 0 bs

/-- The context has written exactly the bytes `bs` of the current frame (10_state.md R26). -/
def Context.Wrote (k : Context) (bs : List U8) : Prop :=
  k.tb = Memory.ofBytes bs ∧ k.cursor = bs.length

/-- The IMAGE record of a pixel input (30_encoding.md R57). -/
def imageRecord (c : Config) (p : List U8) : List U8 :=
  pixelRecord c (BitVec.ofNat 16 (runLength c p)) (pixelColors p)

/-- The operands of one frame (41_frame_encoder.md R96). -/
structure FrameArgs where
  d : U8
  ox : U8
  oy : U8
  w : U16
  h : U16
  p : List U8
deriving DecidableEq, Repr

/-- What START and IMAGE check of a frame's operands: the selector (41_frame_encoder.md R85), the input length
(60_exceptions.md R116) and the run length (30_encoding.md R63). -/
def FrameArgs.legal (c : Config) (f : FrameArgs) : Prop :=
  legalSelector f.d = true ∧ f.p.length % 4 = 0 ∧ runLength c f.p ≤ 0xFFFF

/-- The bytes of a frame up to its START record. -/
def FrameArgs.upToStart (c : Config) (f : FrameArgs) : List U8 :=
  startRecord c f.d f.ox f.oy f.w f.h

/-- The bytes of a frame up to its IMAGE record. -/
def FrameArgs.upToImage (c : Config) (f : FrameArgs) : List U8 :=
  f.upToStart c ++ imageRecord c f.p

/-- The bytes of a frame up to its BLIT record. -/
def FrameArgs.upToBlit (c : Config) (f : FrameArgs) : List U8 :=
  f.upToImage c ++ blitRecord c

/-- The bytes of a whole frame, `START ++ IMAGE ++ BLIT ++ END` (30_encoding.md R60). -/
def FrameArgs.bytes (c : Config) (f : FrameArgs) : List U8 :=
  f.upToBlit c ++ endRecord c f.d

/-- What a context holds in each stage: its bytes, its cursor and its selector are those of some frame's records
up to that stage (10_state.md R26, R32, 41_frame_encoder.md R98). Nothing is said of an `Aborted` context (R121). -/
def Context.Carries (k : Context) (c : Config) : Prop :=
  match k.stage with
  | .idle => k.Wrote [] ∧ k.disp = none ∧ k.err = none
  | .headerWritten => ∃ f : FrameArgs, f.legal c ∧ k.Wrote (f.upToStart c) ∧ k.disp = some f.d ∧ k.err = none
  | .pixelsWritten => ∃ f : FrameArgs, f.legal c ∧ k.Wrote (f.upToImage c) ∧ k.disp = some f.d ∧ k.err = none
  | .blitIssued => ∃ f : FrameArgs, f.legal c ∧ k.Wrote (f.upToBlit c) ∧ k.disp = some f.d ∧ k.err = none
  | .closed => ∃ f : FrameArgs, f.legal c ∧ k.Wrote (f.bytes c) ∧ k.disp = some f.d ∧ k.err = none
  | .consumed => k.tb = [] ∧ (∃ n, k.cursor = frameLength c n) ∧ k.err = none
  | .aborted => True

/-- A context in a sound state: its buffer in canonical form and within its capacity (20_memory.md R42, R48), the
cursor within the capacity (10_state.md R23), the selector `none`, 0 or 1 (R24), and the frame its stage promises. -/
structure Context.Sound (k : Context) (c : Config) (cap : Nat) : Prop where
  canonical : k.tb.wf = true
  inBuffer : ∀ a, cap ≤ a → k.tb.read a = none
  cursorFits : k.cursor ≤ cap
  selector : ∀ d, k.disp = some d → legalSelector d = true
  carries : k.Carries c

/-- An entry of `XFERLOG` is a whole frame (30_encoding.md R73). -/
def Transfer.WholeFrame (c : Config) (x : Transfer) : Prop :=
  ∃ f : FrameArgs, f.legal c ∧ x.bytes = f.bytes c

/-- The session state is consistent: `OWNER = none` exactly when `BUSY = false` (10_state.md R28), the owner is a
requester (R28), no context is mid-frame outside a session (60_exceptions.md R127), and the session handed off each
context at most once, by the latest transport writes (42_session_control.md R106). -/
structure State.SessionSound (s : State) : Prop where
  ownerIff : s.owner = none ↔ s.busy = false
  ownerExists : ∀ q, s.owner = some q → q < s.cfg.numReq
  quiet : s.busy = false → s.anyMidFrame = false
  sentOnce : s.handedOff.Nodup
  sentLogged : s.handedOff <:+ s.xferLog.map Transfer.buf

/-- A sound state of the whole block: what reset establishes and every step keeps. -/
structure State.Sound (s : State) : Prop where
  params : s.cfg.wf = true
  session : s.SessionSound
  context : ∀ b, (s.ctx b).Sound s.cfg (s.cfg.capacity b)
  frames : ∀ x ∈ s.xferLog, x.WholeFrame s.cfg

/-- The last transport write of a buffer (10_state.md R29). -/
def State.lastSent (s : State) (b : BufId) : Option Transfer :=
  (s.xferLog.filter fun x => decide (x.buf = b)).getLast?

/-- A `Consumed` context, whose bytes have no value any more (10_state.md R26), still has the cursor and the selector
of the frame it handed off, the last transport write of its buffer (10_state.md R32, 42_session_control.md R105). -/
def State.ConsumedSound (s : State) : Prop :=
  ∀ b, (s.ctx b).stage = .consumed → ∃ f : FrameArgs, f.legal s.cfg ∧
    s.lastSent b = some ⟨b, f.bytes s.cfg⟩ ∧ (s.ctx b).cursor = (f.bytes s.cfg).length ∧ (s.ctx b).disp = some f.d

/-- How many transport writes of a buffer were made so far (10_state.md R29). -/
def State.sentCount (s : State) (b : BufId) : Nat :=
  (s.xferLog.filter fun x => decide (x.buf = b)).length

/-- A step inside a session: one taken while `BUSY` is set. -/
structure SessionStep (s t : State) : Prop where
  inSession : s.busy = true
  steps : step s = .next t

end Sys2Proof.Machine
end

