-- ==== Sys2Proof/Certificates/Slice0/Obligations.lean ====
section
/-! DEFINITION. The statements for the provers. The helpers of the namespace `Claims` say in the spec's terms what
a next state keeps, what a context gained, and what an abort does. -/

namespace Sys2Proof.Claims

open Sys2Proof Sys2Proof.Machine

/-- `exec` answers a next state in which `q` is given the result `r` (30_encoding.md R69; that the state keeps it is
the model's choice, log 7) and `P` holds. -/
def Answers (i : Instr) (s : State) (q : Nat) (r : Result) (P : State → Prop) : Prop :=
  ∃ t, exec i s = .next t ∧ t.reply = some ⟨q, r⟩ ∧ P t

/-- `exec` refuses: the mark and the result are all that changes (60_exceptions.md R123; that a refusal is a next
state is the model's choice, log 8). -/
def Refuses (i : Instr) (s : State) (q : Nat) (r : RefuseReason) : Prop :=
  exec i s = .next { s with refused := true, reply := some ⟨q, .refused r⟩ }

/-- Nothing outside context `b` and the result changed. -/
structure SameOutside (b : BufId) (s t : State) : Prop where
  cfg : t.cfg = s.cfg
  transportAttached : t.transportAttached = s.transportAttached
  busy : t.busy = s.busy
  owner : t.owner = s.owner
  otherContext : t.ctx (other b) = s.ctx (other b)
  xferLog : t.xferLog = s.xferLog
  errLog : t.errLog = s.errLog
  refused : t.refused = s.refused
  handedOff : t.handedOff = s.handedOff
  freeCount : t.freeCount = s.freeCount
  pending : t.pending = s.pending

/-- The context gained exactly the bytes `bs` at its cursor, which advanced over them; every other byte reads as
before, and `ERR[b]` is unchanged (20_memory.md R47). -/
structure Appended (k k' : Context) (bs : List U8) : Prop where
  cursor : k'.cursor = k.cursor + bs.length
  bytes : ∀ a, k'.tb.read a = if k.cursor ≤ a ∧ a < k.cursor + bs.length then bs[a - k.cursor]? else k.tb.read a
  err : k'.err = k.err

/-- The IMAGE record of a pixel input stands at offset `a`, field by field (30_encoding.md R57): the opcode at 0, the
run length `(L div 4) div BLOCK_FACTOR` at 2, and at `4 + 2k` the packed color of the input's bytes `4k` (red), `4k+1`
(green), `4k+2` (blue), `4k+3` (alpha) (20_memory.md R35). -/
structure ImageAt (c : Config) (p : List U8) (m : Memory) (a : Nat) : Prop where
  opcode : ∀ j, j < 2 → m.read (a + j) = (bytes16 c.wireOrder c.opPixel)[j]?
  runLength : ∀ j, j < 2 →
    m.read (a + 2 + j) = (bytes16 c.wireOrder (BitVec.ofNat 16 (p.length / 4 / c.blockFactor)))[j]?
  color : ∀ k r g bl al, p[4 * k]? = some r → p[4 * k + 1]? = some g → p[4 * k + 2]? = some bl →
    p[4 * k + 3]? = some al → ∀ j, j < 2 →
      m.read (a + 4 + 2 * k + j) = (bytes16 c.wireOrder (quantize r g bl al))[j]?

/-- What the abort procedure of 60_exceptions.md R121 does, field by field, to a state in which a command naming
context `b` raised `e`. After BUFFER_OVERFLOW the bytes from the old cursor on have no value, and the cursor is some
value between the old one and the capacity: nothing more is said of it. -/
structure AbortedBy (b : BufId) (e : ErrorKind) (cmd : CommandName) (s t : State) : Prop where
  stage : (t.ctx b).stage = .aborted
  firstErrorKept : (t.ctx b).err = if (s.ctx b).err = none then some e else (s.ctx b).err
  disp : (t.ctx b).disp = (s.ctx b).disp
  precise : e ≠ .bufferOverflow →
    (t.ctx b).cursor = (s.ctx b).cursor ∧ (∀ a, (t.ctx b).tb.read a = (s.ctx b).tb.read a) ∧
      t.freeCount = s.freeCount
  overflow : e = .bufferOverflow →
    (s.ctx b).cursor ≤ (t.ctx b).cursor ∧
      ((s.ctx b).cursor ≤ s.cfg.capacity b → (t.ctx b).cursor ≤ s.cfg.capacity b) ∧
      (∀ a, a < (s.ctx b).cursor → (t.ctx b).tb.read a = (s.ctx b).tb.read a) ∧
      (∀ a, (s.ctx b).cursor ≤ a → (t.ctx b).tb.read a = none)
  otherStage : (t.ctx (other b)).stage =
    if (s.ctx (other b)).stage.inEncode then .aborted else (s.ctx (other b)).stage
  otherKept : (t.ctx (other b)).cursor = (s.ctx (other b)).cursor ∧ (t.ctx (other b)).disp = (s.ctx (other b)).disp ∧
    (t.ctx (other b)).err = (s.ctx (other b)).err ∧ (t.ctx (other b)).tb = (s.ctx (other b)).tb
  released : t.busy = false ∧ t.owner = none
  logged : t.errLog = s.errLog ++ [⟨b, e, cmd⟩]
  kept : t.cfg = s.cfg ∧ t.transportAttached = s.transportAttached ∧ t.xferLog = s.xferLog ∧
    t.refused = s.refused ∧ t.handedOff = s.handedOff ∧ t.pending = s.pending

/-- `exec` raises `e` in context `b`: the abort procedure, and the result `ERR(code)` (60_exceptions.md R121). -/
def Aborts (i : Instr) (s : State) (q : Nat) (b : BufId) (e : ErrorKind) (cmd : CommandName) : Prop :=
  Answers i s q (.err e) (AbortedBy b e cmd s)

/-- The context a command names (30_encoding.md R67), FRAME among them (41_frame_encoder.md R96). -/
def namedContext : Instr → Option BufId
  | .clear _ b => some b
  | .start _ b _ _ _ _ _ => some b
  | .image _ b _ => some b
  | .blit _ b => some b
  | .endCmd _ b _ => some b
  | .handoff _ b => some b
  | .frame _ b _ _ _ _ _ _ => some b
  | _ => none

/-- The commands that can raise an error, with the context and the name their abort logs (60_exceptions.md R115). -/
def raiser : Instr → Option (BufId × CommandName)
  | .start _ b _ _ _ _ _ => some (b, .start)
  | .image _ b _ => some (b, .image)
  | .blit _ b => some (b, .blit)
  | .endCmd _ b _ => some (b, .endCmd)
  | .handoff _ b => some (b, .handoff)
  | _ => none

/-- The pseudo-commands of 30_encoding.md R70. -/
def isPseudo : Instr → Bool
  | .frame _ _ _ _ _ _ _ _ => true
  | .send _ _ _ _ => true
  | .send1 _ _ _ _ _ _ _ => true
  | _ => false

/-- The frame a SEND writes for one half (42_session_control.md R107): origin `(0, 0)`, `HALF_W × H`. -/
def halfFrame (c : Config) (d : U8) (p : List U8) : FrameArgs :=
  ⟨d, 0, 0, c.halfW, c.height, p⟩

/-- The pixels of one half: `HALF_W·H` (42_session_control.md R108). -/
def halfPixels (c : Config) : Nat :=
  c.halfW.toNat * c.height.toNat

/-- A send failed with `e` in buffer 0: its context is `Aborted` with that error; the other context is as before, but
`Aborted` if it was in stages 1 to 4 (60_exceptions.md R121). -/
structure FailedInFirst (s t : State) (e : ErrorKind) : Prop where
  logged : ∃ cmd, t.errLog = s.errLog ++ [⟨.tb0, e, cmd⟩]
  stage : t.ctx0.stage = .aborted
  err : t.ctx0.err = some e
  otherContext : t.ctx1 = if s.ctx1.stage.inEncode then { s.ctx1 with stage := .aborted } else s.ctx1

/-- The four commands of a FRAME (41_frame_encoder.md R96). -/
def frameCommands (q : Nat) (b : BufId) (f : FrameArgs) : List Instr :=
  [.start q b f.d f.ox f.oy f.w f.h, .image q b f.p, .blit q b, .endCmd q b f.d]

/-- Commands as pending inputs. -/
def asInputs (is : List Instr) : List HostInput :=
  is.map fun i => .present (.command i)

/-- The commands of a SEND (42_session_control.md R107). -/
def sendCommands (c : Config) (q : Nat) (v : List U8) (dL dR : U8) : List Instr :=
  [.acquire q, .clear q .tb0, .frame q .tb0 dL 0 0 c.halfW c.height (leftHalf c v), .clear q .tb1,
    .frame q .tb1 dR 0 0 c.halfW c.height (rightHalf c v), .handoff q .tb0, .handoff q .tb1, .release q]

/-- `t` is what the input queue reaches from `s` by running the first `k` of a send's commands: every command before
the last is `GRANTED` (the ACQUIRE) or `OK`; the send stops early only at its ACQUIRE, `DROPPED`, or at one of its
FRAMEs (its third and, in SEND, its fifth command) with that FRAME's error. -/
def RunsPrefix (s t : State) (cmds : List Instr) : Prop :=
  ∃ k, 1 ≤ k ∧ k ≤ cmds.length ∧
    Host.Core.run core k { s with pending := asInputs cmds ++ s.pending } =
      .next { t with pending := asInputs (cmds.drop k) ++ t.pending } ∧
    (∀ j, 1 ≤ j → j < k → ∃ u : State,
      Host.Core.run core j { s with pending := asInputs cmds ++ s.pending } = .next u ∧
        u.lastResult = some (if j = 1 then .granted else .ok)) ∧
    ((k = cmds.length ∧ t.lastResult = some .ok) ∨ (k = 1 ∧ t.lastResult = some .dropped) ∨
      ((k = 3 ∨ k = 5) ∧ k < cmds.length ∧ ∃ e, t.lastResult = some (.err e)))

/-- The commands of a SEND1 (42_session_control.md R109). -/
def sendOneCommands (q : Nat) (f : FrameArgs) : List Instr :=
  [.acquire q, .clear q .tb0, .frame q .tb0 f.d f.ox f.oy f.w f.h f.p, .handoff q .tb0, .release q]

end Sys2Proof.Claims

open Sys2Proof Sys2Proof.Machine Sys2Proof.Claims

/-! ### Reset, the step and the fetch -/

/-- 70_reset_and_hazards.md R135 with the reset values of 10_state.md R22 to R30, for every parameter value. (That
`State.reset` takes the parameters of `T1` is the model's choice, log 1, and no part of this. That no context was handed
off is the value of a field of the model's own, log 20.) -/
def Obligations.ResetValues : Prop :=
  ∀ (c : Config) (attached : Bool) (b : BufId),
    let s := State.resetWith c attached
    s.busy = false ∧ s.owner = none ∧ s.xferLog = [] ∧ s.errLog = [] ∧ s.refused = false ∧
      s.handedOff = [] ∧
      (s.ctx b).stage = .idle ∧ (s.ctx b).cursor = 0 ∧ (s.ctx b).disp = none ∧ errNumber (s.ctx b).err = 0 ∧
      ∀ a, (s.ctx b).tb.read a = none

/-- A step runs the decoded instruction: the first pending transaction is taken and its instruction executed on
the state without it. The input queue is the model's own (log 4, log 14): with nothing pending nothing happens, the
host drives `TRANSPORT_ATTACHED` between commands, and what does not decode to a well-formed instruction cannot be
presented (30_encoding.md R71). -/
def Obligations.StepRunsDecodedInstruction : Prop :=
  ∀ s : State,
    (∀ t rest i, s.pending = .present t :: rest → decode s.cfg t = .ok i → i.wf s.cfg = true →
      step s = exec i { s with pending := rest }) ∧
    (∀ t rest i, s.pending = .present t :: rest → decode s.cfg t = .ok i → i.wf s.cfg = false →
      step s = .refused .illFormed) ∧
    (∀ t rest e, s.pending = .present t :: rest → decode s.cfg t = .error e →
      step s = .refused (.notPresentable e)) ∧
    (∀ on rest, s.pending = .attach on :: rest →
      step s = .next { s with transportAttached := on, pending := rest }) ∧
    (s.pending = [] → step s = .next s)

/-- A sanity statement about a few words written out from 30_encoding.md R56 to R59 and R68 (the records are those
of 95_test_vectors.md V-S1, V-I1, V-B1, V-E1 and V-E2). -/
def Obligations.WrittenWordsDecode : Prop :=
  decode Config.t1 (.wire [0xF0, 0x01, 0x01, 0xA5, 0, 0, 0, 0, 0, 0, 0x02, 0x03, 0x01, 0xE0, 0x01, 0x68]) =
      .ok (.startOfData 1 2 3 480 360) ∧
    decode Config.t1 (.wire [0xF0, 0x02, 0x00, 0x01, 0x35, 0x64]) = .ok (.transmitPixels 1 [0x3564]) ∧
    decode Config.t1 (.wire [0xF0, 0x03, 0x00, 0x00]) = .ok .blitTrigger ∧
    decode Config.t1 (.wire [0xF0, 0x04, 0x01]) = .ok (.endOfData 1) ∧
    decode Config.t2 (.wire [0x04, 0xF0, 0x01, 0x00]) = .ok (.endOfDataPad 1) ∧
    decode Config.t1 (.line ['1', ':', ' ', 'C', 'L', 'E', 'A', 'R', ' ', '0'] []) = .ok (.clear 1 .tb0)

/-! ### Encoding -/

/-- Decoding the encoding of a well-formed wire record gives it back, for every parameter value R137 admits and every
operand (30_encoding.md R56 to R59, R62). -/
def Obligations.RecordDecodesAsEncoded : Prop :=
  ∀ (c : Config) (i : Instr) (bytes : List U8), c.wf = true → i.wf c = true → encodeRecord c i = some bytes →
    decode c (.wire bytes) = .ok i

/-- The other direction: bytes that decode to a record are the encoding of that record, and the record is one PQFE
can write, so each byte sequence has one meaning and no reserved field is overlooked (30_encoding.md R56 to R59,
R65). -/
def Obligations.DecodedRecordEncodesBack : Prop :=
  ∀ (c : Config) (bytes : List U8) (i : Instr), decode c (.wire bytes) = .ok i →
    encodeRecord c i = some bytes ∧ i.wf c = true

/-- Every command has an assembler line, and reading it gives the command back, with every operand at every value
(30_encoding.md R67, R68; the printed form is the model's choice among those R68 allows, log 12). -/
def Obligations.CommandReadsAsPrinted : Prop :=
  ∀ (c : Config) (i : Instr), i.isCommand = true →
    ∃ text, encode c i = some (.line text []) ∧ decode c (.line text []) = .ok i

/-- No bytes and no line decode to a repeat or skip run (30_encoding.md R66; that nothing decodes to them is the model's
reading of 'reserved and not emitted', log 10). -/
def Obligations.ReservedRunsNeverDecode : Prop :=
  ∀ (c : Config) (bytes : List U8) (text : List Char) (inputs : List (List Char × List U8)),
    decode c (.wire bytes) ≠ .ok .repeatRun ∧ decode c (.wire bytes) ≠ .ok .skipRun ∧
      decode c (.line text inputs) ≠ .ok .repeatRun ∧ decode c (.line text inputs) ≠ .ok .skipRun

/-- `parse` of 30_encoding.md R73 reads every frame that PQFE writes back to its START operands and the colors of its
IMAGE input; and every `XFERLOG` entry of a sound state passes it. The spec marks that part of R73 as its own
inference. -/
def Obligations.FrameParsesBack : Prop :=
  (∀ (c : Config) (f : FrameArgs), c.wf = true → f.legal c →
    parseFrame c (f.bytes c) = some ⟨f.d, f.ox, f.oy, f.w, f.h, pixelColors f.p⟩) ∧
  (∀ s : State, s.Sound → ∀ x ∈ s.xferLog, ∃ r, parseFrame s.cfg x.bytes = some r)

/-- A frame is `27 + e + 2N` bytes long (30_encoding.md R60). -/
def Obligations.FrameLengthIsExact : Prop :=
  ∀ (c : Config) (f : FrameArgs),
    f.bytes c = startRecord c f.d f.ox f.oy f.w f.h ++ imageRecord c f.p ++ blitRecord c ++ endRecord c f.d ∧
      (f.bytes c).length = 27 + c.padLen + 2 * pixelCount f.p

/-! ### The quantizer -/

/-- QUANT is pure and total: one function of `(r, g, bl)` gives its value in every state; alpha has no effect; it
needs no session and changes nothing (40_quantizer.md R77, R81). -/
def Obligations.QuantIsPure : Prop :=
  ∃ color : U8 → U8 → U8 → U16, ∀ (q : Nat) (r g bl a : U8) (s : State),
    quantize r g bl a = color r g bl ∧
      exec (.quant q r g bl a) s = .next { s with reply := some ⟨q, .okValue (color r g bl)⟩ }

/-- QUANT returns the packed color, here bit by bit: `r div 7` from bit 0, `g div 3` from bit 6, `bl div 7` from bit
11, combined by OR where they overlap, and cut to 16 bits (40_quantizer.md R76); nothing of the block changes. -/
def Obligations.QuantReturnsPackedColor : Prop :=
  ∀ (q : Nat) (r g bl a : U8) (s : State), ∃ c : U16,
    exec (.quant q r g bl a) s = .next { s with reply := some ⟨q, .okValue c⟩ } ∧
      ∀ i, i < 16 →
        c.getLsbD i =
          ((r.toNat / 7).testBit i || (decide (6 ≤ i) && (g.toNat / 3).testBit (i - 6)) ||
            (decide (11 ≤ i) && (bl.toNat / 7).testBit (i - 11)))

/-- 40_quantizer.md R79: bit 16 of the formula is bit 5 of the reduced blue, 1 exactly when `bl ≥ 224`; it is lost,
so the blue field as emitted is `(b' mod 32) << 11`. The spec marks R79 as its own inference from R76. -/
def Obligations.TopBlueBitIsDropped : Prop :=
  (∀ r g bl a : U8,
    (quantWide r g bl).testBit 16 = (bl.toNat / 7).testBit 5 ∧
      ((quantWide r g bl).testBit 16 = true ↔ 224 ≤ bl.toNat) ∧
      (quantize r g bl a).toNat = quantWide r g bl % 2 ^ 16 ∧
      (quantize r g bl a).toNat =
        (r.toNat / 7) ||| ((g.toNat / 3) <<< 6) ||| ((bl.toNat / 7 % 32) <<< 11)) ∧
    quantize 0 0 224 0 = 0 ∧ quantize 0 0 255 0 = 0x2000

/-! ### The encoder commands -/

/-- START (41_frame_encoder.md R84, R85): refused outside its session; SEQUENCE_ERROR unless `Idle`; FIELD_RANGE if
the selector is not 0 or 1; BUFFER_OVERFLOW if 16 bytes do not fit; else it writes the START record at the cursor,
latches the selector and goes to `HeaderWritten`. -/
def Obligations.StartWritesItsRecord : Prop :=
  ∀ (s : State) (q : Nat) (b : BufId) (d ox oy : U8) (w h : U16), (s.ctx b).tb.wf = true →
    let i := Instr.start q b d ox oy w h
    (s.holdsSession q = false → Refuses i s q .notOwner) ∧
    (s.holdsSession q = true →
      ((s.ctx b).stage ≠ .idle → Aborts i s q b .sequenceError .start) ∧
      ((s.ctx b).stage = .idle →
        (d ≠ 0 ∧ d ≠ 1 → Aborts i s q b .fieldRange .start) ∧
        (d = 0 ∨ d = 1 →
          (s.cfg.capacity b < (s.ctx b).cursor + 16 → Aborts i s q b .bufferOverflow .start) ∧
          ((s.ctx b).cursor + 16 ≤ s.cfg.capacity b →
            Answers i s q .ok fun t =>
              SameOutside b s t ∧ (t.ctx b).stage = .headerWritten ∧ (t.ctx b).disp = some d ∧
                Appended (s.ctx b) (t.ctx b) (startRecord s.cfg d ox oy w h)))))

/-- IMAGE (41_frame_encoder.md R87): refused outside its session; SEQUENCE_ERROR unless `HeaderWritten`;
MALFORMED_BITMAP if the input length is no multiple of 4; FIELD_RANGE if the run length exceeds 16 bits;
BUFFER_OVERFLOW if the record does not fit; else it writes the IMAGE record, whose fields are read back byte by byte
(30_encoding.md R57, 20_memory.md R35), and goes to `PixelsWritten`. -/
def Obligations.ImageWritesItsRecord : Prop :=
  ∀ (s : State) (q : Nat) (b : BufId) (p : List U8), (s.ctx b).tb.wf = true →
    let i := Instr.image q b p
    let n := p.length / 4
    (s.holdsSession q = false → Refuses i s q .notOwner) ∧
    (s.holdsSession q = true →
      ((s.ctx b).stage ≠ .headerWritten → Aborts i s q b .sequenceError .image) ∧
      ((s.ctx b).stage = .headerWritten →
        (p.length % 4 ≠ 0 → Aborts i s q b .malformedBitmap .image) ∧
        (p.length % 4 = 0 →
          (0xFFFF < n / s.cfg.blockFactor → Aborts i s q b .fieldRange .image) ∧
          (n / s.cfg.blockFactor ≤ 0xFFFF →
            (s.cfg.capacity b < (s.ctx b).cursor + 4 + 2 * n → Aborts i s q b .bufferOverflow .image) ∧
            ((s.ctx b).cursor + 4 + 2 * n ≤ s.cfg.capacity b →
              Answers i s q .ok fun t =>
                SameOutside b s t ∧ (t.ctx b).stage = .pixelsWritten ∧ (t.ctx b).disp = (s.ctx b).disp ∧
                  Appended (s.ctx b) (t.ctx b) (imageRecord s.cfg p) ∧
                  ImageAt s.cfg p (t.ctx b).tb (s.ctx b).cursor)))))

/-- BLIT (41_frame_encoder.md R90): refused outside its session; SEQUENCE_ERROR unless `PixelsWritten`;
BUFFER_OVERFLOW if 4 bytes do not fit; else it writes the BLIT record and goes to `BlitIssued`. -/
def Obligations.BlitWritesItsRecord : Prop :=
  ∀ (s : State) (q : Nat) (b : BufId), (s.ctx b).tb.wf = true →
    let i := Instr.blit q b
    (s.holdsSession q = false → Refuses i s q .notOwner) ∧
    (s.holdsSession q = true →
      ((s.ctx b).stage ≠ .pixelsWritten → Aborts i s q b .sequenceError .blit) ∧
      ((s.ctx b).stage = .pixelsWritten →
        (s.cfg.capacity b < (s.ctx b).cursor + 4 → Aborts i s q b .bufferOverflow .blit) ∧
        ((s.ctx b).cursor + 4 ≤ s.cfg.capacity b →
          Answers i s q .ok fun t =>
            SameOutside b s t ∧ (t.ctx b).stage = .blitIssued ∧ (t.ctx b).disp = (s.ctx b).disp ∧
              Appended (s.ctx b) (t.ctx b) (blitRecord s.cfg))))

/-- END (41_frame_encoder.md R93, R94): refused outside its session; SEQUENCE_ERROR unless `BlitIssued`; FIELD_RANGE
unless the selector is 0 or 1 and the one START latched; BUFFER_OVERFLOW if `3 + e` bytes do not fit; else it writes
the END record and goes to `Closed`. -/
def Obligations.EndWritesItsRecord : Prop :=
  ∀ (s : State) (q : Nat) (b : BufId) (d : U8), (s.ctx b).tb.wf = true →
    let i := Instr.endCmd q b d
    (s.holdsSession q = false → Refuses i s q .notOwner) ∧
    (s.holdsSession q = true →
      ((s.ctx b).stage ≠ .blitIssued → Aborts i s q b .sequenceError .endCmd) ∧
      ((s.ctx b).stage = .blitIssued →
        ((d ≠ 0 ∧ d ≠ 1) ∨ (s.ctx b).disp ≠ some d → Aborts i s q b .fieldRange .endCmd) ∧
        ((d = 0 ∨ d = 1) ∧ (s.ctx b).disp = some d →
          (s.cfg.capacity b < (s.ctx b).cursor + 3 + s.cfg.padLen → Aborts i s q b .bufferOverflow .endCmd) ∧
          ((s.ctx b).cursor + 3 + s.cfg.padLen ≤ s.cfg.capacity b →
            Answers i s q .ok fun t =>
              SameOutside b s t ∧ (t.ctx b).stage = .closed ∧ (t.ctx b).disp = (s.ctx b).disp ∧
                Appended (s.ctx b) (t.ctx b) (endRecord s.cfg d)))))

/-- FRAME completes (41_frame_encoder.md R96): in its session, from `Idle`, with legal operands and room for the whole
frame, it writes START, IMAGE, BLIT and END in that order at the cursor and leaves the context `Closed`. That FRAME is
one step is the model's choice (log 11). -/
def Obligations.FrameWritesWholeFrame : Prop :=
  ∀ (s : State) (q : Nat) (b : BufId) (f : FrameArgs), (s.ctx b).tb.wf = true → s.holdsSession q = true →
    (s.ctx b).stage = .idle → f.legal s.cfg →
    (s.ctx b).cursor + frameLength s.cfg (pixelCount f.p) ≤ s.cfg.capacity b →
    Answers (.frame q b f.d f.ox f.oy f.w f.h f.p) s q .ok fun t =>
      SameOutside b s t ∧ (t.ctx b).stage = .closed ∧ (t.ctx b).disp = some f.d ∧
        Appended (s.ctx b) (t.ctx b) (f.bytes s.cfg)

/-- FRAME stands for its four commands issued back to back (41_frame_encoder.md R96): it reaches the state that the
input queue reaches by running the first `k` of them, every one before the last with the result `OK`; it stops
before the fourth only at a result that is not `OK`. The requester exists, so that its commands can be presented. The
input queue is the model's own (log 4), and so is FRAME as one step (log 11). -/
def Obligations.FrameRunsItsFourCommands : Prop :=
  ∀ (s t : State) (q : Nat) (b : BufId) (f : FrameArgs), q < s.cfg.numReq →
    exec (.frame q b f.d f.ox f.oy f.w f.h f.p) s = .next t →
    ∃ k, 1 ≤ k ∧ k ≤ 4 ∧
      Host.Core.run core k { s with pending := asInputs (frameCommands q b f) ++ s.pending } =
        .next { t with pending := asInputs ((frameCommands q b f).drop k) ++ t.pending } ∧
      (∀ j, 1 ≤ j → j < k → ∃ u : State,
        Host.Core.run core j { s with pending := asInputs (frameCommands q b f) ++ s.pending } = .next u ∧
          u.lastResult = some .ok) ∧
      (k < 4 → t.lastResult ≠ some .ok)

/-! ### Session and buffer control -/

/-- ACQUIRE (42_session_control.md R100): dropped without a transport or with a session in flight, changing nothing;
else granted. That a session begins with nothing handed off is the model's own field (log 20). -/
def Obligations.AcquireTestsAndSets : Prop :=
  ∀ (s : State) (q : Nat),
    (s.transportAttached = false → exec (.acquire q) s = .next { s with reply := some ⟨q, .dropped⟩ }) ∧
    (s.transportAttached = true → s.busy = true →
      exec (.acquire q) s = .next { s with reply := some ⟨q, .dropped⟩ }) ∧
    (s.transportAttached = true → s.busy = false →
      exec (.acquire q) s = .next { s with busy := true, owner := some q, handedOff := [], reply := some ⟨q, .granted⟩ })

/-- RELEASE (42_session_control.md R102): refused from a non-owner, refused while a frame is half written; else the
session ends and nothing else changes. -/
def Obligations.ReleaseEndsSession : Prop :=
  ∀ (s : State) (q : Nat),
    (¬(s.busy = true ∧ s.owner = some q) → Refuses (.release q) s q .notOwner) ∧
    (s.busy = true → s.owner = some q → (∃ b, (s.ctx b).stage.midFrame = true) →
      Refuses (.release q) s q .midFrame) ∧
    (s.busy = true → s.owner = some q → (∀ b, (s.ctx b).stage.midFrame = false) →
      exec (.release q) s = .next { s with busy := false, owner := none, reply := some ⟨q, .ok⟩ })

/-- CLEAR (42_session_control.md R103): refused outside its session and mid-frame; else the context is `Idle` and
empty, its error cleared, every byte of its buffer unspecified. -/
def Obligations.ClearEmptiesContext : Prop :=
  ∀ (s : State) (q : Nat) (b : BufId),
    (s.holdsSession q = false → Refuses (.clear q b) s q .notOwner) ∧
    (s.holdsSession q = true → (s.ctx b).stage.midFrame = true → Refuses (.clear q b) s q .midFrame) ∧
    (s.holdsSession q = true → (s.ctx b).stage.midFrame = false →
      Answers (.clear q b) s q .ok fun t =>
        SameOutside b s t ∧ (t.ctx b).stage = .idle ∧ (t.ctx b).cursor = 0 ∧ (t.ctx b).disp = none ∧
          (t.ctx b).err = none ∧ ∀ a, (t.ctx b).tb.read a = none)

/-- HANDOFF (42_session_control.md R105): refused outside its session; SEQUENCE_ERROR unless `Closed`, and
of a context that this session handed off already (R106; that this is the error is the model's choice, log 20); else one
`XFERLOG` entry with the bytes at offsets `0 .. CURSOR[b]-1`, and the context `Consumed`, no byte of its buffer with a
value any more (10_state.md R26). An offset that has no value is read as a free value, of which nothing is said. A
cursor past the capacity, which no run reaches (10_state.md R23), is excluded. -/
def Obligations.HandoffSendsTheFrame : Prop :=
  ∀ (s : State) (q : Nat) (b : BufId),
    let i := Instr.handoff q b
    (s.holdsSession q = false → Refuses i s q .notOwner) ∧
    (s.holdsSession q = true → (s.ctx b).stage ≠ .closed ∨ b ∈ s.handedOff →
      Aborts i s q b .sequenceError .handoff) ∧
    (s.holdsSession q = true → (s.ctx b).stage = .closed → b ∉ s.handedOff → (s.ctx b).cursor ≤ s.cfg.capacity b →
      Answers i s q .ok fun t =>
        (∃ bytes : List U8, t.xferLog = s.xferLog ++ [⟨b, bytes⟩] ∧ bytes.length = (s.ctx b).cursor ∧
          ∀ a v, a < (s.ctx b).cursor → (s.ctx b).tb.read a = some v → bytes[a]? = some v) ∧
        (t.ctx b).stage = .consumed ∧ (t.ctx b).cursor = (s.ctx b).cursor ∧ (t.ctx b).disp = (s.ctx b).disp ∧
        (t.ctx b).err = (s.ctx b).err ∧ (∀ a, (t.ctx b).tb.read a = none) ∧
        t.ctx (other b) = s.ctx (other b) ∧ t.cfg = s.cfg ∧ t.transportAttached = s.transportAttached ∧
        t.busy = s.busy ∧ t.owner = s.owner ∧ t.errLog = s.errLog ∧ t.refused = s.refused ∧
        t.handedOff = s.handedOff ++ [b] ∧ t.pending = s.pending)

/-- HANDOFF of a `Closed` context, not handed off yet in this session, whose cursor is past the capacity stops by name: the offsets it would read do not
exist (20_memory.md R54). No run reaches such a state (10_state.md R23); the fault is the model's choice, log 15. -/
def Obligations.HandoffOutsideBufferStops : Prop :=
  ∀ (s : State) (q : Nat) (b : BufId), s.holdsSession q = true → (s.ctx b).stage = .closed →
    b ∉ s.handedOff → s.cfg.capacity b < (s.ctx b).cursor → exec (.handoff q b) s = .fault .outsideBuffer

/-- SEND completes (42_session_control.md R107): with a transport, no session in flight and no frame half written,
legal selectors, and buffers and run length that admit a half, it makes two transport writes, buffer 0 then buffer 1,
each the whole frame of its half, and ends with its session released. That SEND is one step is the model's choice
(log 11). -/
def Obligations.SendSendsBothHalves : Prop :=
  ∀ (s : State) (q : Nat) (v : List U8) (dL dR : U8), v.length = virtualLength s.cfg →
    s.transportAttached = true → s.busy = false → s.anyMidFrame = false →
    legalSelector dL = true → legalSelector dR = true → halfPixels s.cfg / s.cfg.blockFactor ≤ 0xFFFF →
    (∀ b, frameLength s.cfg (halfPixels s.cfg) ≤ s.cfg.capacity b) →
    Answers (.send q v dL dR) s q .ok fun t =>
      t.xferLog = s.xferLog ++
        [⟨.tb0, (halfFrame s.cfg dL (leftHalf s.cfg v)).bytes s.cfg⟩,
          ⟨.tb1, (halfFrame s.cfg dR (rightHalf s.cfg v)).bytes s.cfg⟩] ∧
      t.busy = false ∧ t.owner = none ∧
      (∀ b, (t.ctx b).stage = .consumed ∧ (t.ctx b).cursor = frameLength s.cfg (halfPixels s.cfg) ∧
        (t.ctx b).err = none ∧ ∀ a, (t.ctx b).tb.read a = none) ∧
      t.ctx0.disp = some dL ∧ t.ctx1.disp = some dR ∧
      t.cfg = s.cfg ∧ t.transportAttached = s.transportAttached ∧ t.errLog = s.errLog ∧ t.refused = s.refused ∧
      t.handedOff = [.tb0, .tb1] ∧ t.pending = s.pending

/-- SEND1 completes (42_session_control.md R109): with a transport, no session in flight, no frame half written, legal
operands and room in buffer 0, it makes exactly one transport write, the whole frame, and ends with its session
released. That SEND1 is one step is the model's choice (log 11). -/
def Obligations.SendOneSendsOneFrame : Prop :=
  ∀ (s : State) (q : Nat) (f : FrameArgs), s.transportAttached = true → s.busy = false →
    s.anyMidFrame = false → f.legal s.cfg → frameLength s.cfg (pixelCount f.p) ≤ s.cfg.capacity0 →
    Answers (.send1 q f.p f.d f.ox f.oy f.w f.h) s q .ok fun t =>
      t.xferLog = s.xferLog ++ [⟨.tb0, f.bytes s.cfg⟩] ∧ t.busy = false ∧ t.owner = none ∧
      t.ctx0.stage = .consumed ∧ t.ctx0.cursor = frameLength s.cfg (pixelCount f.p) ∧ t.ctx0.disp = some f.d ∧
      t.ctx0.err = none ∧ (∀ a, t.ctx0.tb.read a = none) ∧
      t.ctx1 = s.ctx1 ∧ t.cfg = s.cfg ∧ t.transportAttached = s.transportAttached ∧ t.errLog = s.errLog ∧
      t.refused = s.refused ∧ t.handedOff = [.tb0] ∧ t.pending = s.pending

/-- A SEND, of a bitmap of the right size, or a SEND1 reaches exactly the state that the input queue reaches by running
the first `k` of its commands back to back, whatever its result (42_session_control.md R107, R109): all of them and the
result `OK`, or ACQUIRE alone and the result `DROPPED`, or up to the FRAME that failed and that FRAME's error. The
premise is the invariant of 60_exceptions.md R127, which the spec marks as its own inference; the input queue is the
model's own (log 4), and so is SEND as one step (log 11). -/
def Obligations.SendRunsItsCommands : Prop :=
  ∀ (s t : State) (q : Nat), q < s.cfg.numReq → (s.busy = false → s.anyMidFrame = false) →
    (∀ (v : List U8) (dL dR : U8), v.length = virtualLength s.cfg → exec (.send q v dL dR) s = .next t →
      RunsPrefix s t (sendCommands s.cfg q v dL dR)) ∧
    (∀ f : FrameArgs, exec (.send1 q f.p f.d f.ox f.oy f.w f.h) s = .next t →
      RunsPrefix s t (sendOneCommands q f))

/-- A SEND of a bitmap of another size is refused, and a SEND or SEND1 without a transport or with a session in
flight is a no-op with the result `DROPPED` (42_session_control.md R107, R109, R111, 60_exceptions.md R120). -/
def Obligations.SendIsDroppedOrRefused : Prop :=
  ∀ (s : State) (q : Nat) (v : List U8) (dL dR : U8) (f : FrameArgs),
    (v.length ≠ virtualLength s.cfg → Refuses (.send q v dL dR) s q .badSendInput) ∧
    (v.length = virtualLength s.cfg → s.transportAttached = false ∨ s.busy = true →
      exec (.send q v dL dR) s = .next { s with reply := some ⟨q, .dropped⟩ }) ∧
    (s.transportAttached = false ∨ s.busy = true →
      exec (.send1 q f.p f.d f.ox f.oy f.w f.h) s = .next { s with reply := some ⟨q, .dropped⟩ })

/-- After any SEND or SEND1 `BUSY` is false, unless a session was in flight before it, which then stays
(42_session_control.md R110). The premise is the invariant of 60_exceptions.md R127: no frame is half written outside
a session. The spec marks R110 and R127 as its own inferences. -/
def Obligations.SendNeverKeepsItsSession : Prop :=
  ∀ (s t : State) (i : Instr), (s.busy = false → s.anyMidFrame = false) →
    ((∃ q v dL dR, i = .send q v dL dR) ∨ ∃ q p d ox oy w h, i = .send1 q p d ox oy w h) →
    exec i s = .next t →
    (s.busy = false → t.busy = false ∧ (t.owner = s.owner ∨ t.owner = none)) ∧
    (s.busy = true → t.busy = true ∧ t.owner = s.owner)

/-- A SEND or SEND1 that ends in an error makes no transport write, logs one abort, and leaves the session released
(42_session_control.md R106, R111, which the spec marks as its own inferences). -/
def Obligations.FailedSendWritesNothing : Prop :=
  ∀ (s t : State) (i : Instr) (q : Nat) (e : ErrorKind),
    ((∃ v dL dR, i = .send q v dL dR) ∨ ∃ p d ox oy w h, i = .send1 q p d ox oy w h) →
    exec i s = .next t → t.reply = some ⟨q, .err e⟩ →
    t.xferLog = s.xferLog ∧ t.busy = false ∧ t.owner = none ∧ ∃ x, t.errLog = s.errLog ++ [x] ∧ x.error = e

/-- The halves of a virtual bitmap (42_session_control.md R108): each is `HALF_W·H·4` bytes, and pixel `(x, y)` of the
left half is pixel `(x, y)` of the bitmap, of the right half pixel `(HALF_W + x, y)`. -/
def Obligations.HalvesAreTheColumns : Prop :=
  ∀ (c : Config) (v : List U8), v.length = virtualLength c →
    (leftHalf c v).length = halfPixels c * 4 ∧ (rightHalf c v).length = halfPixels c * 4 ∧
    ∀ x y j, x < c.halfW.toNat → y < c.height.toNat → j < 4 →
      (leftHalf c v)[4 * (y * c.halfW.toNat + x) + j]? = v[4 * (y * (2 * c.halfW.toNat) + x) + j]? ∧
      (rightHalf c v)[4 * (y * c.halfW.toNat + x) + j]? =
        v[4 * (y * (2 * c.halfW.toNat) + (c.halfW.toNat + x)) + j]?

/-! ### Errors and refusals -/

/-- The abort procedure (60_exceptions.md R121), for every command that can raise an error, whatever it raised. -/
def Obligations.EveryErrorAborts : Prop :=
  ∀ (s t : State) (i : Instr) (q : Nat) (b : BufId) (cmd : CommandName) (e : ErrorKind),
    raiser i = some (b, cmd) → i.requester = some q → exec i s = .next t → t.reply = some ⟨q, .err e⟩ →
    AbortedBy b e cmd s t ∧ s.holdsSession q = true

/-- After an abort the block is ready at once (60_exceptions.md R126): any requester is granted a session, in which
CLEAR of either context returns it to `Idle` with no error and an empty buffer. -/
def Obligations.AbortIsRecoverable : Prop :=
  ∀ (s : State) (b b' : BufId) (e : ErrorKind) (cmd : CommandName) (q : Nat), s.transportAttached = true →
    ∃ t1 t2, exec (.acquire q) (s.abort b e cmd) = .next t1 ∧ t1.reply = some ⟨q, .granted⟩ ∧
      exec (.clear q b') t1 = .next t2 ∧ t2.reply = some ⟨q, .ok⟩ ∧ (t2.ctx b').stage = .idle ∧
      (t2.ctx b').cursor = 0 ∧ (t2.ctx b').err = none

/-- A command of a requester without the session changes nothing: whatever command another requester issues while
`q` holds the session, only its own result and, where it is refused, the mark differ (41_frame_encoder.md R97,
42_session_control.md R101, 60_exceptions.md R123; the spec marks R97 and R101 as its own inferences). -/
def Obligations.ForeignCommandChangesNothing : Prop :=
  ∀ (s : State) (i : Instr) (q q' : Nat), s.busy = true → s.owner = some q → i.requester = some q' → q' ≠ q →
    ∃ t r, exec i s = .next t ∧ t = { s with refused := t.refused, reply := some ⟨q', r⟩ } ∧
      (s.refused = true → t.refused = true)

/-- A command naming one context leaves the other alone, but for the abort of an error, which can only change its
stage to `Aborted` (30_encoding.md R74, which the spec marks as its own inference). -/
def Obligations.OtherContextIsIndependent : Prop :=
  ∀ (s t : State) (i : Instr) (b : BufId), namedContext i = some b → exec i s = .next t →
    t.ctx (other b) = s.ctx (other b) ∨
      ((∃ e, t.lastResult = some (.err e)) ∧ (s.ctx (other b)).stage.inEncode = true ∧
        t.ctx (other b) = { s.ctx (other b) with stage := .aborted })

/-- The per-context state machine (41_frame_encoder.md R98): a command of 30_encoding.md R67 changes the stage of a
context only as the table says, one step forward by the command of that stage, to `Idle` by CLEAR, or to `Aborted` by
an error. -/
def Obligations.StagesFollowTheTable : Prop :=
  ∀ (s t : State) (i : Instr) (b : BufId), isPseudo i = false → exec i s = .next t →
    (t.ctx b).stage ≠ (s.ctx b).stage →
    let x := (s.ctx b).stage
    let y := (t.ctx b).stage
    (x = .idle ∧ y = .headerWritten ∧ ∃ q d ox oy w h, i = .start q b d ox oy w h) ∨
      (x = .headerWritten ∧ y = .pixelsWritten ∧ ∃ q p, i = .image q b p) ∨
      (x = .pixelsWritten ∧ y = .blitIssued ∧ ∃ q, i = .blit q b) ∨
      (x = .blitIssued ∧ y = .closed ∧ ∃ q d, i = .endCmd q b d) ∨
      (x = .closed ∧ y = .consumed ∧ ∃ q, i = .handoff q b) ∨
      (x.midFrame = false ∧ y = .idle ∧ ∃ q, i = .clear q b) ∨
      (y = .aborted ∧ (∃ e, t.lastResult = some (.err e)) ∧
        (namedContext i = some b ∨ (namedContext i = some (other b) ∧ x.inEncode = true)))

/-- Nothing but the owner's own RELEASE, or an error of one of the owner's own commands, ends a session
(10_state.md R27, R28). -/
def Obligations.SessionEndsOnlyByReleaseOrError : Prop :=
  ∀ (s t : State) (i : Instr) (q : Nat), s.busy = true → s.owner = some q → exec i s = .next t → t.busy = false →
    i.requester = some q ∧ t.owner = none ∧
      ((i = .release q ∧ t.lastResult = some .ok) ∨ ∃ e, t.lastResult = some (.err e))

/-- The bytes of a `Closed` frame are final (41_frame_encoder.md R95): a command of 30_encoding.md R67 other than CLEAR
or HANDOFF of that context leaves its bytes and its cursor as they are. -/
def Obligations.ClosedFrameIsFinal : Prop :=
  ∀ (s t : State) (i : Instr) (b : BufId), (s.ctx b).stage = .closed → isPseudo i = false →
    (∀ q, i ≠ .clear q b) → (∀ q, i ≠ .handoff q b) → exec i s = .next t →
    (t.ctx b).cursor = (s.ctx b).cursor ∧ ∀ a, (t.ctx b).tb.read a = (s.ctx b).tb.read a

/-- Determinism of the encoder (41_frame_encoder.md R99): in two states with the same parameters and the same context,
each command returns the same result to a requester that holds the session, and where that is no BUFFER_OVERFLOW
leaves the same context, bytes included. The spec marks R99 as its own inference. -/
def Obligations.EncoderIsDeterministic : Prop :=
  ∀ (s s' t t' : State) (i : Instr) (q : Nat) (b : BufId), raiser i ≠ none → namedContext i = some b →
    (∀ q', i ≠ .handoff q' b) → i.requester = some q → s.cfg = s'.cfg → s.ctx b = s'.ctx b →
    s.holdsSession q = true → s'.holdsSession q = true → exec i s = .next t → exec i s' = .next t' →
    t.lastResult = t'.lastResult ∧ (t.lastResult ≠ some (.err .bufferOverflow) → t.ctx b = t'.ctx b)

/-! ### Instructions that stop -/

/-- A wire record is no command: as an instruction it stops by name, in every state (30_encoding.md R55, R71; what
reads it is the display device, 00_scope.md R4). The stop is the model's choice, log 9. -/
def Obligations.WireRecordsStop : Prop :=
  ∀ (s : State) (d ox oy : U8) (w h rl : U16) (colors : List U16),
    exec (.startOfData d ox oy w h) s = .refused .recordForDevice ∧
      exec (.transmitPixels rl colors) s = .refused .recordForDevice ∧
      exec .blitTrigger s = .refused .recordForDevice ∧ exec (.endOfData d) s = .refused .recordForDevice ∧
      exec (.endOfDataPad d) s = .refused .recordForDevice

/-- The repeat and skip runs are reserved: each stops by name, in every state (30_encoding.md R66). The stop is the
model's choice, log 10. -/
def Obligations.ReservedRunsStop : Prop :=
  ∀ s : State, exec .repeatRun s = .refused .reservedRun ∧ exec .skipRun s = .refused .reservedRun

/-! ### Invariants -/

/-- The state after reset is sound, for every parameter value that 70_reset_and_hazards.md R137 admits. -/
def Obligations.ResetIsSound : Prop :=
  ∀ (c : Config) (attached : Bool), c.wf = true → (State.resetWith c attached).Sound

/-- Every step keeps a sound state sound: the parameters admissible (70_reset_and_hazards.md R137), the session
consistent (10_state.md R28, 60_exceptions.md R127, 42_session_control.md R106), each buffer in canonical form and within its capacity, the
cursor within the capacity (10_state.md R23), the selector legal (R24), the bytes of every context exactly those of a
frame up to its stage (10_state.md R26, R32), and every transport write a whole frame (30_encoding.md R73). -/
def Obligations.EveryStepKeepsSound : Prop :=
  ∀ s t : State, s.Sound → step s = .next t → t.Sound

/-- The invariant of 10_state.md R28, `OWNER = none` exactly when `BUSY = false`, is kept by every step together with
60_exceptions.md R127, no context is mid-frame outside a session, and 42_session_control.md R106, a session hands off
each context at most once, by the latest transport writes; the spec marks both as its own inferences. -/
def Obligations.EveryStepKeepsSessionConsistent : Prop :=
  ∀ s t : State, s.SessionSound → step s = .next t → t.SessionSound

/-- Every step keeps both buffers in canonical form, keeps the cursor within the capacity (10_state.md R23), and
gives no byte at or past the capacity a value (20_memory.md R48). -/
def Obligations.EveryStepStaysInsideBuffers : Prop :=
  ∀ s t : State,
    (∀ b, (s.ctx b).tb.wf = true ∧ (s.ctx b).cursor ≤ s.cfg.capacity b ∧
      ∀ a, s.cfg.capacity b ≤ a → (s.ctx b).tb.read a = none) →
    step s = .next t →
    ∀ b, (t.ctx b).tb.wf = true ∧ (t.ctx b).cursor ≤ t.cfg.capacity b ∧
      ∀ a, t.cfg.capacity b ≤ a → (t.ctx b).tb.read a = none

/-- No step removes or changes an entry of `XFERLOG` or `ERRLOG` (10_state.md R29, 20_memory.md R53). -/
def Obligations.LogsOnlyGrow : Prop :=
  ∀ s t : State, step s = .next t → s.xferLog <+: t.xferLog ∧ s.errLog <+: t.errLog

/-- No command writes a parameter or the host input, and none clears the mark `REFUSED` (10_state.md R20, R30, R31). -/
def Obligations.ParametersAreNeverWritten : Prop :=
  ∀ (s t : State) (i : Instr), exec i s = .next t →
    t.cfg = s.cfg ∧ t.transportAttached = s.transportAttached ∧ (s.refused = true → t.refused = true) ∧
      t.pending = s.pending

/-- The cursor in each stage (10_state.md R32, which the spec marks as its own inference), for a context of a sound
state. `N` is the pixel count of the frame `f` whose records stand in the buffer, or, once `Consumed`, of the frame
last handed off from it. -/
def Obligations.CursorFollowsStage : Prop :=
  ∀ (s : State) (b : BufId), s.Sound → s.ConsumedSound →
    let k := s.ctx b
    (k.stage = .idle → k.cursor = 0) ∧
    (k.stage = .headerWritten → ∃ f : FrameArgs, f.legal s.cfg ∧ k.Wrote (f.upToStart s.cfg) ∧ k.cursor = 16) ∧
    (k.stage = .pixelsWritten → ∃ f : FrameArgs, f.legal s.cfg ∧ k.Wrote (f.upToImage s.cfg) ∧
      k.cursor = 20 + 2 * pixelCount f.p) ∧
    (k.stage = .blitIssued → ∃ f : FrameArgs, f.legal s.cfg ∧ k.Wrote (f.upToBlit s.cfg) ∧
      k.cursor = 24 + 2 * pixelCount f.p) ∧
    (k.stage = .closed → ∃ f : FrameArgs, f.legal s.cfg ∧ k.Wrote (f.bytes s.cfg) ∧
      k.cursor = 27 + s.cfg.padLen + 2 * pixelCount f.p) ∧
    (k.stage = .consumed → ∃ f : FrameArgs, f.legal s.cfg ∧ s.lastSent b = some ⟨b, f.bytes s.cfg⟩ ∧
      k.cursor = 27 + s.cfg.padLen + 2 * pixelCount f.p)

/-- After reset the first frame of a context needs no CLEAR (70_reset_and_hazards.md R136): ACQUIRE is granted, and
FRAME of either context then completes. The spec marks R136 as its own inference. -/
def Obligations.FirstFrameNeedsNoClear : Prop :=
  ∀ (c : Config) (q : Nat) (b : BufId) (f : FrameArgs), f.legal c →
    frameLength c (pixelCount f.p) ≤ c.capacity b →
    Answers (.acquire q) (State.resetWith c true) q .granted fun t =>
      Answers (.frame q b f.d f.ox f.oy f.w f.h f.p) t q .ok fun u =>
        (u.ctx b).stage = .closed ∧ (u.ctx b).cursor = frameLength c (pixelCount f.p)

/-- `CAP_ref(N)` holds a frame of `N` pixels exactly when `N ≥ 25` (20_memory.md R49, R50, whose threshold the
spec marks as its own inference). -/
def Obligations.ReferenceCapacityThreshold : Prop :=
  ∀ (c : Config) (n : Nat), (frameLength c n ≤ capRef c n ↔ 25 ≤ n) ∧
    (c.endPad = false → capRef c 172800 = 460803 ∧ frameLength c 172800 = 345627)

/-- After reset no context is `Consumed` and nothing was sent (70_reset_and_hazards.md R135). -/
def Obligations.ResetIsConsumedSound : Prop :=
  ∀ (c : Config) (attached : Bool) (b : BufId),
    (State.resetWith c attached).ConsumedSound ∧ (State.resetWith c attached).lastSent b = none

/-- Every step keeps the cursor and the selector of a `Consumed` context those of the frame it handed off, the last
transport write of its buffer (10_state.md R32, which the spec marks as its own inference). -/
def Obligations.EveryStepKeepsConsumedSound : Prop :=
  ∀ s t : State, s.Sound → s.ConsumedSound → step s = .next t → t.ConsumedSound

/-! ### The bytes of the fields -/

/-- The colors IMAGE writes are the packed colors of the input's pixels, one for each whole pixel, in increasing pixel
number, red, green, blue and alpha at bytes `4k` to `4k+3` (20_memory.md R35, R36). -/
def Obligations.ColorsArePixelsInOrder : Prop :=
  ∀ (p : List U8) (k : Nat),
    (k < p.length / 4 → ∃ r g bl al, p[4 * k]? = some r ∧ p[4 * k + 1]? = some g ∧ p[4 * k + 2]? = some bl ∧
      p[4 * k + 3]? = some al ∧ (pixelColors p)[k]? = some (quantize r g bl al)) ∧
    (p.length / 4 ≤ k → (pixelColors p)[k]? = none)

/-- A 16-bit field is its high byte and its low byte, the high byte at the lower offset with `WIRE_ORDER = BE` and the
low byte with `LE` (20_memory.md R44). -/
def Obligations.SixteenBitFieldsInWireOrder : Prop :=
  ∀ v : U16,
    bytes16 .be v = [BitVec.ofNat 8 (v.toNat / 256), BitVec.ofNat 8 (v.toNat % 256)] ∧
      bytes16 .le v = [BitVec.ofNat 8 (v.toNat % 256), BitVec.ofNat 8 (v.toNat / 256)]

/-! ### What a failed send leaves -/

/-- What a SEND or SEND1 that ends in an error leaves (42_session_control.md R107, R109, 60_exceptions.md R121). If it
failed in buffer 0, that context is `Aborted` with the error, and the other one is as before but `Aborted` if it was
in stages 1 to 4. If SEND failed in buffer 1, that context is `Aborted` with the error, and context 0 is `Aborted`
with no error of its own, keeping the selector, the cursor and every byte of the left half's whole frame. The premise
is the invariant of 60_exceptions.md R127, which the spec marks as its own inference. -/
def Obligations.FailedSendAbortsItsContexts : Prop :=
  ∀ (s t : State) (q : Nat) (e : ErrorKind), (s.busy = false → s.anyMidFrame = false) →
    t.reply = some ⟨q, .err e⟩ →
    (∀ (v : List U8) (dL dR : U8), exec (.send q v dL dR) s = .next t →
      FailedInFirst s t e ∨
        ((∃ cmd, t.errLog = s.errLog ++ [⟨.tb1, e, cmd⟩]) ∧ t.ctx1.stage = .aborted ∧ t.ctx1.err = some e ∧
          t.ctx0.stage = .aborted ∧ t.ctx0.err = none ∧ t.ctx0.disp = some dL ∧
          t.ctx0.cursor = frameLength s.cfg (halfPixels s.cfg) ∧
          ∀ a, t.ctx0.tb.read a = ((halfFrame s.cfg dL (leftHalf s.cfg v)).bytes s.cfg)[a]?)) ∧
    (∀ f : FrameArgs, exec (.send1 q f.p f.d f.ox f.oy f.w f.h) s = .next t → FailedInFirst s t e)

/-! ### The transport writes of a session -/

/-- A command makes a transport write exactly where it is a successful HANDOFF, and then one, of the context it names
(42_session_control.md R105, R106: 'a session makes as many transport writes as it issues successful HANDOFFs', which
the spec marks as its own inference). SEND and SEND1 run HANDOFFs of their own and have their own statements. -/
def Obligations.OnlyHandoffWritesToTransport : Prop :=
  ∀ (s t : State) (i : Instr), isPseudo i = false → exec i s = .next t →
    t.xferLog.map Transfer.buf = s.xferLog.map Transfer.buf ++
      match i with
      | .handoff q b => if t.reply = some ⟨q, .ok⟩ then [b] else []
      | _ => []

/-- Within one session there is at most one transport write per context, so at most two (42_session_control.md R106,
which the spec marks as its own inference), whatever commands the session runs, CLEAR and FRAME of a context that was
sent among them. The session may stand anywhere at the start of the run: a context it handed off by then is not sent
again. That a second HANDOFF is stopped by SEQUENCE_ERROR is the model's choice (log 20). -/
def Obligations.SessionWritesOncePerContext : Prop :=
  ∀ s t : State, Relation.ReflTransGen SessionStep s t →
    (∀ b, t.sentCount b ≤ s.sentCount b + if b ∈ s.handedOff then 0 else 1) ∧
      t.xferLog.length ≤ s.xferLog.length + 2

/-- After an error there is nothing left to send (42_session_control.md R106, which the spec marks as its own
inference): whatever instruction answered it, no transport write was made, no context is `Closed` and the session is
released (60_exceptions.md R121). -/
def Obligations.ErrorLeavesNothingToSend : Prop :=
  ∀ (s t : State) (i : Instr) (q : Nat) (e : ErrorKind), exec i s = .next t → t.reply = some ⟨q, .err e⟩ →
    t.xferLog = s.xferLog ∧ (∀ b, (t.ctx b).stage ≠ .closed) ∧ t.busy = false ∧ t.owner = none
end

