-- ==== Sys2Proof/Laws/Bytes.lean ====
section
/-! SUPPORT. Byte order and record layout: lengths, and reading a 16-bit field back. -/

namespace Sys2Proof

@[simp] theorem bytes16_length (o : WireOrder) (v : U16) : (bytes16 o v).length = 2 := by
  cases o <;> rfl

/-- The zero fields are the same in either order (20_memory.md R44). -/
@[simp] theorem bytes16_zero (o : WireOrder) : bytes16 o 0 = [0, 0] := by
  cases o <;> decide

theorem append_hi8_lo8 (v : U16) : (hi8 v ++ lo8 v : BitVec (8 + 8)) = v := by
  unfold hi8 lo8
  ext i hi
  simp only [BitVec.getElem_append, BitVec.getElem_extractLsb']
  split
  · simp [BitVec.getLsbD_eq_getElem hi]
  · rw [show 8 + (i - 8) = i by omega, BitVec.getLsbD_eq_getElem hi]

/-- A 16-bit field is its two bytes, in either order. -/
theorem bytes16_cases (o : WireOrder) (v : U16) :
    ∃ x y, bytes16 o v = [x, y] ∧ word16 o x y = v := by
  cases o
  · exact ⟨hi8 v, lo8 v, rfl, append_hi8_lo8 v⟩
  · exact ⟨lo8 v, hi8 v, rfl, append_hi8_lo8 v⟩

theorem hi8_append (x y : U8) : hi8 (x ++ y : BitVec (8 + 8)) = x := by
  unfold hi8
  ext i hi
  simp only [BitVec.getElem_extractLsb', BitVec.getLsbD_append]
  rw [if_neg (by omega), show 8 + i - 8 = i by omega, BitVec.getLsbD_eq_getElem hi]

theorem lo8_append (x y : U8) : lo8 (x ++ y : BitVec (8 + 8)) = y := by
  unfold lo8
  ext i hi
  simp only [BitVec.getElem_extractLsb', BitVec.getLsbD_append]
  rw [if_pos (by omega), show 0 + i = i by omega, BitVec.getLsbD_eq_getElem hi]

/-- Two bytes are those of the 16-bit value they make. -/
@[simp] theorem bytes16_word16 (o : WireOrder) (x y : U8) : bytes16 o (word16 o x y) = [x, y] := by
  cases o
  · exact congrArg₂ (fun a b => [a, b]) (hi8_append x y) (lo8_append x y)
  · exact congrArg₂ (fun a b => [a, b]) (lo8_append y x) (hi8_append y x)

theorem words16_append (o : WireOrder) (v : U16) (rest : List U8) :
    words16 o (bytes16 o v ++ rest) = (words16 o rest).map (v :: ·) := by
  obtain ⟨x, y, h, hv⟩ := bytes16_cases o v
  rw [h, List.cons_append, List.cons_append, List.nil_append, words16, hv]

/-- The 16-bit values of the bytes of 16-bit fields are those fields. -/
@[simp] theorem words16_flatMap (o : WireOrder) (vs : List U16) :
    words16 o (vs.flatMap (bytes16 o)) = some vs := by
  induction vs with
  | nil => rfl
  | cons v vs ih => rw [List.flatMap_cons, words16_append, ih]; rfl

@[simp] theorem flatMap_bytes16_length (o : WireOrder) (vs : List U16) :
    (vs.flatMap (bytes16 o)).length = 2 * vs.length := by
  induction vs with
  | nil => rfl
  | cons v vs ih => simp [List.flatMap_cons, ih]; omega

@[simp] theorem startRecord_length (c : Config) (d ox oy : U8) (w h : U16) :
    (startRecord c d ox oy w h).length = 16 := by
  simp [startRecord]

@[simp] theorem pixelRecord_length (c : Config) (rl : U16) (colors : List U16) :
    (pixelRecord c rl colors).length = 4 + 2 * colors.length := by
  simp [pixelRecord]; omega

@[simp] theorem blitRecord_length (c : Config) : (blitRecord c).length = 4 := by
  simp [blitRecord]

@[simp] theorem endRecord_length (c : Config) (d : U8) : (endRecord c d).length = 3 + c.padLen := by
  unfold endRecord Config.padLen
  split <;> simp

namespace Machine

@[simp] theorem pixelColors_length (p : List U8) : (pixelColors p).length = pixelCount p := by
  simp [pixelColors]

@[simp] theorem imageRecord_length (c : Config) (p : List U8) :
    (imageRecord c p).length = 4 + 2 * pixelCount p := by
  simp [imageRecord]

@[simp] theorem FrameArgs.upToStart_length (c : Config) (f : FrameArgs) : (f.upToStart c).length = 16 := by
  simp [FrameArgs.upToStart]

@[simp] theorem FrameArgs.upToImage_length (c : Config) (f : FrameArgs) :
    (f.upToImage c).length = 20 + 2 * pixelCount f.p := by
  simp [FrameArgs.upToImage]; omega

@[simp] theorem FrameArgs.upToBlit_length (c : Config) (f : FrameArgs) :
    (f.upToBlit c).length = 24 + 2 * pixelCount f.p := by
  simp [FrameArgs.upToBlit]; omega

end Machine

end Sys2Proof
end

