-- ==== Sys2Proof/Laws/Memory.lean ====
section
/-! SUPPORT. The bytes of a transfer buffer: read after write, and that every memory operation keeps the canonical
form. -/

namespace Sys2Proof.Machine

@[simp] theorem Memory.read_nil (a : Nat) : Memory.read [] a = none := rfl

theorem Memory.read_cons (k : Nat) (v : U8) (m : Memory) (a : Nat) :
    Memory.read ((k, v) :: m) a = if a = k then some v else Memory.read m a := rfl

/-- Every offset of a canonical memory below its first entry reads as unspecified. -/
theorem Memory.read_below (m : Memory) (k : Nat) (v : U8) (h : Memory.wf ((k, v) :: m) = true) (a : Nat)
    (ha : a ≤ k) : Memory.read m a = none := by
  induction m generalizing k v with
  | nil => rfl
  | cons c m ih =>
    obtain ⟨k', v'⟩ := c
    simp only [Memory.wf, Bool.and_eq_true, decide_eq_true_eq] at h
    rw [Memory.read_cons, if_neg (by omega)]
    exact ih k' v' h.2 (by omega)

theorem Memory.read_write (m : Memory) (h : m.wf = true) (a : Nat) (v : U8) (x : Nat) :
    (m.write a v).read x = if x = a then some v else m.read x := by
  induction m with
  | nil => simp [Memory.write, Memory.read]
  | cons c m ih =>
    obtain ⟨k, w⟩ := c
    have hm : Memory.wf m = true := by
      cases m with
      | nil => rfl
      | cons c' m' =>
        obtain ⟨k', w'⟩ := c'
        simp only [Memory.wf, Bool.and_eq_true] at h
        exact h.2
    unfold Memory.write
    split
    · simp only [Memory.read_cons]
    · split
      · subst_vars
        simp only [Memory.read_cons]
        split <;> rfl
      · simp only [Memory.read_cons, ih hm]
        split
        · split
          · omega
          · rfl
        · rfl

theorem Memory.wf_tail (c : Host.Cell) (m : Memory) (h : Memory.wf (c :: m) = true) : m.wf = true := by
  cases m with
  | nil => rfl
  | cons c' m' =>
    obtain ⟨k, v⟩ := c
    obtain ⟨k', v'⟩ := c'
    simp only [Memory.wf, Bool.and_eq_true] at h
    exact h.2

/-- In a canonical memory every later entry lies above the first. -/
theorem Memory.head_lt (k : Nat) (v : U8) (m : Memory) (h : Memory.wf ((k, v) :: m) = true) :
    ∀ c ∈ m, k < c.1 := by
  induction m generalizing k v with
  | nil => simp
  | cons c m ih =>
    obtain ⟨k', v'⟩ := c
    simp only [Memory.wf, Bool.and_eq_true, decide_eq_true_eq] at h
    intro c hc
    rcases List.mem_cons.mp hc with rfl | hc
    · exact h.1
    · exact Nat.lt_trans h.1 (ih k' v' h.2 c hc)

/-- The canonical form, entry by entry. -/
theorem Memory.wf_cons (k : Nat) (v : U8) (m : Memory) (hm : m.wf = true) (h : ∀ c ∈ m, k < c.1) :
    Memory.wf ((k, v) :: m) = true := by
  cases m with
  | nil => rfl
  | cons c m =>
    obtain ⟨k', v'⟩ := c
    simp only [Memory.wf, Bool.and_eq_true, decide_eq_true_eq]
    exact ⟨h (k', v') (List.mem_cons_self ..), hm⟩

/-- A write lists no entry but the written one and those there before. -/
theorem Memory.mem_write (m : Memory) (a : Nat) (v : U8) : ∀ c ∈ m.write a v, c = (a, v) ∨ c ∈ m := by
  induction m with
  | nil => simp [Memory.write]
  | cons c m ih =>
    obtain ⟨k, w⟩ := c
    unfold Memory.write
    intro c hc
    split at hc
    · simpa using hc
    · split at hc
      · rcases List.mem_cons.mp hc with h | h
        · exact .inl h
        · exact .inr (List.mem_cons_of_mem _ h)
      · rcases List.mem_cons.mp hc with h | h
        · exact .inr (h ▸ List.mem_cons_self ..)
        · rcases ih c h with h | h
          · exact .inl h
          · exact .inr (List.mem_cons_of_mem _ h)

theorem Memory.wf_write (m : Memory) (h : m.wf = true) (a : Nat) (v : U8) : (m.write a v).wf = true := by
  induction m with
  | nil => rfl
  | cons c m ih =>
    obtain ⟨k, w⟩ := c
    have hm := Memory.wf_tail _ m h
    have hl := Memory.head_lt k w m h
    unfold Memory.write
    split
    · refine Memory.wf_cons a v _ h fun c hc => ?_
      rcases List.mem_cons.mp hc with h' | hc
      · rw [h']
        assumption
      · exact Nat.lt_trans ‹_› (hl c hc)
    · split
      · rename_i _ hak
        rw [hak]
        exact Memory.wf_cons k v m hm hl
      · refine Memory.wf_cons k w _ (ih hm) fun c hc => ?_
        rcases Memory.mem_write m a v c hc with h' | hc
        · rw [h']
          exact Nat.lt_of_le_of_ne (Nat.le_of_not_lt ‹_›) (Ne.symm ‹_›)
        · exact hl c hc

theorem Memory.wf_writeBytes (m : Memory) (h : m.wf = true) (off : Nat) (bs : List U8) :
    (m.writeBytes off bs).wf = true := by
  induction bs generalizing m off with
  | nil => exact h
  | cons v vs ih => exact ih _ (Memory.wf_write m h off v) _

/-- Read after write of a byte sequence: the bytes written, and nothing else changed. -/
theorem Memory.read_writeBytes (m : Memory) (h : m.wf = true) (off : Nat) (bs : List U8) (x : Nat) :
    (m.writeBytes off bs).read x = if off ≤ x ∧ x < off + bs.length then bs[x - off]? else m.read x := by
  induction bs generalizing m off with
  | nil => simp [Memory.writeBytes]
  | cons v vs ih =>
    simp only [Memory.writeBytes, List.length_cons]
    rw [ih _ (Memory.wf_write m h off v), Memory.read_write m h]
    by_cases hx : x = off
    · subst hx
      simp
    · by_cases h1 : off + 1 ≤ x ∧ x < off + 1 + vs.length
      · rw [if_pos h1, if_pos (by omega)]
        obtain ⟨d, rfl⟩ : ∃ d, x = off + 1 + d := ⟨x - (off + 1), by omega⟩
        rw [show off + 1 + d - (off + 1) = d by omega, show off + 1 + d - off = d + 1 by omega]
        simp
      · rw [if_neg h1, if_neg hx, if_neg (by omega)]

@[simp] theorem Memory.writeBytes_nil (m : Memory) (off : Nat) : m.writeBytes off [] = m := rfl

theorem Memory.writeBytes_append (m : Memory) (off : Nat) (xs ys : List U8) :
    m.writeBytes off (xs ++ ys) = (m.writeBytes off xs).writeBytes (off + xs.length) ys := by
  induction xs generalizing m off with
  | nil => simp
  | cons v vs ih =>
    simp only [List.cons_append, Memory.writeBytes, ih, List.length_cons]
    congr 1
    omega

theorem Memory.wf_dropFrom (m : Memory) (h : m.wf = true) (off : Nat) : (m.dropFrom off).wf = true := by
  induction m with
  | nil => rfl
  | cons c m ih =>
    obtain ⟨k, v⟩ := c
    have hm := Memory.wf_tail _ m h
    unfold Memory.dropFrom
    rw [List.filter_cons]
    split
    · refine Memory.wf_cons k v _ (ih hm) fun c hc => ?_
      exact Memory.head_lt k v m h c (List.mem_filter.mp hc).1
    · exact ih hm

theorem Memory.read_dropFrom (m : Memory) (off x : Nat) :
    (m.dropFrom off).read x = if x < off then m.read x else none := by
  induction m with
  | nil => simp [Memory.dropFrom]
  | cons c m ih =>
    obtain ⟨k, v⟩ := c
    unfold Memory.dropFrom at ih ⊢
    rw [List.filter_cons]
    by_cases hk : k < off
    · simp only [hk, decide_true, if_true, Memory.read_cons, ih]
      by_cases hx : x = k
      · subst hx; simp [hk]
      · simp [hx]
    · simp only [hk, decide_false, Bool.false_eq_true, if_false, Memory.read_cons, ih]
      by_cases hx : x < off
      · rw [if_pos hx, if_pos hx, if_neg (by omega)]
      · rw [if_neg hx, if_neg hx]

theorem Memory.wf_ofBytes (bs : List U8) : (Memory.ofBytes bs).wf = true :=
  Memory.wf_writeBytes [] rfl 0 bs

@[simp] theorem Memory.read_ofBytes (bs : List U8) (x : Nat) : (Memory.ofBytes bs).read x = bs[x]? := by
  unfold Memory.ofBytes
  rw [Memory.read_writeBytes [] rfl]
  by_cases h : x < bs.length
  · simp [h]
  · simp [h]

/-- The memory after reset is canonical. -/
theorem Context.reset_tb_wf : Context.reset.tb.wf = true := rfl

end Sys2Proof.Machine
end

