-- ==== Sys2Proof/Laws/State.lean ====
section
/-! SUPPORT. One lemma per field per named update of State and of Context, so that no later proof unfolds one. -/

namespace Sys2Proof.Machine

/-! ### `State.ctx` and `State.setCtx` -/

@[simp] theorem State.ctx_tb0 (s : State) : s.ctx .tb0 = s.ctx0 := rfl
@[simp] theorem State.ctx_tb1 (s : State) : s.ctx .tb1 = s.ctx1 := rfl
@[simp] theorem other_tb0 : other .tb0 = .tb1 := rfl
@[simp] theorem other_tb1 : other .tb1 = .tb0 := rfl
@[simp] theorem other_other (b : BufId) : other (other b) = b := by cases b <;> rfl
@[simp] theorem other_ne (b : BufId) : other b ≠ b := by cases b <;> decide
@[simp] theorem ne_other (b : BufId) : b ≠ other b := by cases b <;> decide

theorem eq_or_eq_other (b b' : BufId) : b' = b ∨ b' = other b := by
  cases b <;> cases b' <;> decide

@[simp] theorem State.setCtx_ctx (s : State) (b : BufId) (k : Context) : (s.setCtx b k).ctx b = k := by
  cases b <;> rfl
@[simp] theorem State.setCtx_ctx_other (s : State) (b : BufId) (k : Context) :
    (s.setCtx b k).ctx (other b) = s.ctx (other b) := by
  cases b <;> rfl
@[simp] theorem State.setCtx_cfg (s : State) (b : BufId) (k : Context) : (s.setCtx b k).cfg = s.cfg := by
  cases b <;> rfl
@[simp] theorem State.setCtx_transportAttached (s : State) (b : BufId) (k : Context) :
    (s.setCtx b k).transportAttached = s.transportAttached := by
  cases b <;> rfl
@[simp] theorem State.setCtx_busy (s : State) (b : BufId) (k : Context) : (s.setCtx b k).busy = s.busy := by
  cases b <;> rfl
@[simp] theorem State.setCtx_owner (s : State) (b : BufId) (k : Context) : (s.setCtx b k).owner = s.owner := by
  cases b <;> rfl
@[simp] theorem State.setCtx_xferLog (s : State) (b : BufId) (k : Context) :
    (s.setCtx b k).xferLog = s.xferLog := by
  cases b <;> rfl
@[simp] theorem State.setCtx_errLog (s : State) (b : BufId) (k : Context) : (s.setCtx b k).errLog = s.errLog := by
  cases b <;> rfl
@[simp] theorem State.setCtx_refused (s : State) (b : BufId) (k : Context) :
    (s.setCtx b k).refused = s.refused := by
  cases b <;> rfl
@[simp] theorem State.setCtx_handedOff (s : State) (b : BufId) (k : Context) :
    (s.setCtx b k).handedOff = s.handedOff := by
  cases b <;> rfl
@[simp] theorem State.setCtx_reply (s : State) (b : BufId) (k : Context) : (s.setCtx b k).reply = s.reply := by
  cases b <;> rfl
@[simp] theorem State.setCtx_freeCount (s : State) (b : BufId) (k : Context) :
    (s.setCtx b k).freeCount = s.freeCount := by
  cases b <;> rfl
@[simp] theorem State.setCtx_pending (s : State) (b : BufId) (k : Context) :
    (s.setCtx b k).pending = s.pending := by
  cases b <;> rfl
@[simp] theorem State.setCtx_self (s : State) (b : BufId) : s.setCtx b (s.ctx b) = s := by
  cases b <;> rfl

/-- A record update of the fields other than the contexts leaves every context alone. -/
@[simp] theorem State.ctx_mk (s : State) (b : BufId) (c : Config) (t u r : Bool) (o : Option Nat)
    (x : List Transfer) (e : List AbortEntry) (y : Option Reply) (l : List BufId) (n : Nat) (p : List HostInput) :
    (State.mk c t u o s.ctx0 s.ctx1 x e r y l n p).ctx b = s.ctx b := by
  cases b <;> rfl

/-! ### `State.taken`, `State.attach`, `State.presentNext` -/

@[simp] theorem State.taken_cfg (s : State) : s.taken.cfg = s.cfg := rfl
@[simp] theorem State.taken_transportAttached (s : State) : s.taken.transportAttached = s.transportAttached := rfl
@[simp] theorem State.taken_busy (s : State) : s.taken.busy = s.busy := rfl
@[simp] theorem State.taken_owner (s : State) : s.taken.owner = s.owner := rfl
@[simp] theorem State.taken_ctx0 (s : State) : s.taken.ctx0 = s.ctx0 := rfl
@[simp] theorem State.taken_ctx1 (s : State) : s.taken.ctx1 = s.ctx1 := rfl
@[simp] theorem State.taken_ctx (s : State) (b : BufId) : s.taken.ctx b = s.ctx b := by cases b <;> rfl
@[simp] theorem State.taken_xferLog (s : State) : s.taken.xferLog = s.xferLog := rfl
@[simp] theorem State.taken_errLog (s : State) : s.taken.errLog = s.errLog := rfl
@[simp] theorem State.taken_refused (s : State) : s.taken.refused = s.refused := rfl
@[simp] theorem State.taken_handedOff (s : State) : s.taken.handedOff = s.handedOff := rfl
@[simp] theorem State.taken_reply (s : State) : s.taken.reply = s.reply := rfl
@[simp] theorem State.taken_freeCount (s : State) : s.taken.freeCount = s.freeCount := rfl
@[simp] theorem State.taken_pending (s : State) : s.taken.pending = s.pending.tail := rfl

@[simp] theorem State.attach_cfg (s : State) (v : Bool) : (s.attach v).cfg = s.cfg := rfl
@[simp] theorem State.attach_transportAttached (s : State) (v : Bool) : (s.attach v).transportAttached = v := rfl
@[simp] theorem State.attach_busy (s : State) (v : Bool) : (s.attach v).busy = s.busy := rfl
@[simp] theorem State.attach_owner (s : State) (v : Bool) : (s.attach v).owner = s.owner := rfl
@[simp] theorem State.attach_ctx (s : State) (v : Bool) (b : BufId) : (s.attach v).ctx b = s.ctx b := by
  cases b <;> rfl
@[simp] theorem State.attach_xferLog (s : State) (v : Bool) : (s.attach v).xferLog = s.xferLog := rfl
@[simp] theorem State.attach_errLog (s : State) (v : Bool) : (s.attach v).errLog = s.errLog := rfl
@[simp] theorem State.attach_refused (s : State) (v : Bool) : (s.attach v).refused = s.refused := rfl
@[simp] theorem State.attach_handedOff (s : State) (v : Bool) : (s.attach v).handedOff = s.handedOff := rfl
@[simp] theorem State.attach_reply (s : State) (v : Bool) : (s.attach v).reply = s.reply := rfl
@[simp] theorem State.attach_freeCount (s : State) (v : Bool) : (s.attach v).freeCount = s.freeCount := rfl
@[simp] theorem State.attach_pending (s : State) (v : Bool) : (s.attach v).pending = s.pending := rfl

@[simp] theorem State.presentNext_pending (s : State) (t : Transaction) :
    (s.presentNext t).pending = .present t :: s.pending := rfl
@[simp] theorem State.presentNext_taken (s : State) (t : Transaction) : (s.presentNext t).taken = s := rfl
@[simp] theorem State.presentNext_cfg (s : State) (t : Transaction) : (s.presentNext t).cfg = s.cfg := rfl

/-! ### Updates of a context -/

@[simp] theorem Context.putBytes_stage (k : Context) (bs : List U8) : (k.putBytes bs).stage = k.stage := rfl
@[simp] theorem Context.putBytes_disp (k : Context) (bs : List U8) : (k.putBytes bs).disp = k.disp := rfl
@[simp] theorem Context.putBytes_err (k : Context) (bs : List U8) : (k.putBytes bs).err = k.err := rfl
@[simp] theorem Context.putBytes_cursor (k : Context) (bs : List U8) :
    (k.putBytes bs).cursor = k.cursor + bs.length := rfl
@[simp] theorem Context.putBytes_tb (k : Context) (bs : List U8) :
    (k.putBytes bs).tb = k.tb.writeBytes k.cursor bs := rfl

@[simp] theorem Context.abortSelf_stage (k : Context) (e : ErrorKind) : (k.abortSelf e).stage = .aborted := rfl
@[simp] theorem Context.abortSelf_cursor (k : Context) (e : ErrorKind) : (k.abortSelf e).cursor = k.cursor := rfl
@[simp] theorem Context.abortSelf_disp (k : Context) (e : ErrorKind) : (k.abortSelf e).disp = k.disp := rfl
@[simp] theorem Context.abortSelf_tb (k : Context) (e : ErrorKind) : (k.abortSelf e).tb = k.tb := rfl
@[simp] theorem Context.abortSelf_err (k : Context) (e : ErrorKind) :
    (k.abortSelf e).err = if k.err = none then some e else k.err := rfl

@[simp] theorem Context.abortOther_cursor (k : Context) : k.abortOther.cursor = k.cursor := by
  unfold abortOther; split <;> rfl
@[simp] theorem Context.abortOther_disp (k : Context) : k.abortOther.disp = k.disp := by
  unfold abortOther; split <;> rfl
@[simp] theorem Context.abortOther_err (k : Context) : k.abortOther.err = k.err := by
  unfold abortOther; split <;> rfl
@[simp] theorem Context.abortOther_tb (k : Context) : k.abortOther.tb = k.tb := by
  unfold abortOther; split <;> rfl
@[simp] theorem Context.abortOther_stage (k : Context) :
    k.abortOther.stage = if k.stage.inEncode then .aborted else k.stage := by
  unfold abortOther; split <;> rfl

@[simp] theorem Context.overflowed_stage (k : Context) (cap n : Nat) : (k.overflowed cap n).stage = k.stage := rfl
@[simp] theorem Context.overflowed_disp (k : Context) (cap n : Nat) : (k.overflowed cap n).disp = k.disp := rfl
@[simp] theorem Context.overflowed_err (k : Context) (cap n : Nat) : (k.overflowed cap n).err = k.err := rfl
@[simp] theorem Context.overflowed_tb (k : Context) (cap n : Nat) :
    (k.overflowed cap n).tb = k.tb.dropFrom k.cursor := rfl
theorem Context.overflowed_cursor (k : Context) (cap n : Nat) :
    (k.overflowed cap n).cursor = k.cursor + Free.cursor n % (cap - k.cursor + 1) := rfl

@[simp] theorem Context.consume_stage (k : Context) : k.consume.stage = .consumed := rfl
@[simp] theorem Context.consume_cursor (k : Context) : k.consume.cursor = k.cursor := rfl
@[simp] theorem Context.consume_disp (k : Context) : k.consume.disp = k.disp := rfl
@[simp] theorem Context.consume_err (k : Context) : k.consume.err = k.err := rfl
@[simp] theorem Context.consume_tb (k : Context) : k.consume.tb = [] := rfl
@[simp] theorem Context.cleared_eq (k : Context) : k.cleared = Context.reset := rfl

/-! ### The abort procedure (60_exceptions.md R121) -/

@[simp] theorem State.beforeAbort_cfg (s : State) (b : BufId) (e : ErrorKind) : (s.beforeAbort b e).cfg = s.cfg := by
  unfold beforeAbort; split <;> simp
@[simp] theorem State.beforeAbort_transportAttached (s : State) (b : BufId) (e : ErrorKind) :
    (s.beforeAbort b e).transportAttached = s.transportAttached := by
  unfold beforeAbort; split <;> simp
@[simp] theorem State.beforeAbort_xferLog (s : State) (b : BufId) (e : ErrorKind) :
    (s.beforeAbort b e).xferLog = s.xferLog := by
  unfold beforeAbort; split <;> simp
@[simp] theorem State.beforeAbort_errLog (s : State) (b : BufId) (e : ErrorKind) :
    (s.beforeAbort b e).errLog = s.errLog := by
  unfold beforeAbort; split <;> simp
@[simp] theorem State.beforeAbort_refused (s : State) (b : BufId) (e : ErrorKind) :
    (s.beforeAbort b e).refused = s.refused := by
  unfold beforeAbort; split <;> simp
@[simp] theorem State.beforeAbort_handedOff (s : State) (b : BufId) (e : ErrorKind) :
    (s.beforeAbort b e).handedOff = s.handedOff := by
  unfold beforeAbort; split <;> simp
@[simp] theorem State.beforeAbort_pending (s : State) (b : BufId) (e : ErrorKind) :
    (s.beforeAbort b e).pending = s.pending := by
  unfold beforeAbort; split <;> simp
@[simp] theorem State.beforeAbort_freeCount (s : State) (b : BufId) (e : ErrorKind) :
    (s.beforeAbort b e).freeCount = if e = .bufferOverflow then s.freeCount + 1 else s.freeCount := by
  unfold beforeAbort; split <;> simp
@[simp] theorem State.beforeAbort_ctx (s : State) (b : BufId) (e : ErrorKind) :
    (s.beforeAbort b e).ctx b =
      if e = .bufferOverflow then (s.ctx b).overflowed (s.cfg.capacity b) s.freeCount else s.ctx b := by
  unfold beforeAbort; split <;> simp
@[simp] theorem State.beforeAbort_ctx_other (s : State) (b : BufId) (e : ErrorKind) :
    (s.beforeAbort b e).ctx (other b) = s.ctx (other b) := by
  unfold beforeAbort; split <;> simp

@[simp] theorem State.abort_cfg (s : State) (b : BufId) (e : ErrorKind) (cmd : CommandName) :
    (s.abort b e cmd).cfg = s.cfg := by simp [State.abort]
@[simp] theorem State.abort_transportAttached (s : State) (b : BufId) (e : ErrorKind) (cmd : CommandName) :
    (s.abort b e cmd).transportAttached = s.transportAttached := by simp [State.abort]
@[simp] theorem State.abort_busy (s : State) (b : BufId) (e : ErrorKind) (cmd : CommandName) :
    (s.abort b e cmd).busy = false := rfl
@[simp] theorem State.abort_owner (s : State) (b : BufId) (e : ErrorKind) (cmd : CommandName) :
    (s.abort b e cmd).owner = none := rfl
@[simp] theorem State.abort_xferLog (s : State) (b : BufId) (e : ErrorKind) (cmd : CommandName) :
    (s.abort b e cmd).xferLog = s.xferLog := by simp [State.abort]
@[simp] theorem State.abort_errLog (s : State) (b : BufId) (e : ErrorKind) (cmd : CommandName) :
    (s.abort b e cmd).errLog = s.errLog ++ [⟨b, e, cmd⟩] := by simp [State.abort]
@[simp] theorem State.abort_refused (s : State) (b : BufId) (e : ErrorKind) (cmd : CommandName) :
    (s.abort b e cmd).refused = s.refused := by simp [State.abort]
@[simp] theorem State.abort_handedOff (s : State) (b : BufId) (e : ErrorKind) (cmd : CommandName) :
    (s.abort b e cmd).handedOff = s.handedOff := by simp [State.abort]
@[simp] theorem State.abort_pending (s : State) (b : BufId) (e : ErrorKind) (cmd : CommandName) :
    (s.abort b e cmd).pending = s.pending := by simp [State.abort]
@[simp] theorem State.abort_freeCount (s : State) (b : BufId) (e : ErrorKind) (cmd : CommandName) :
    (s.abort b e cmd).freeCount = if e = .bufferOverflow then s.freeCount + 1 else s.freeCount := by
  simp [State.abort]
@[simp] theorem State.abort_ctx (s : State) (b : BufId) (e : ErrorKind) (cmd : CommandName) :
    (s.abort b e cmd).ctx b = ((s.beforeAbort b e).ctx b).abortSelf e := by
  cases b <;> rfl
@[simp] theorem State.abort_ctx_other (s : State) (b : BufId) (e : ErrorKind) (cmd : CommandName) :
    (s.abort b e cmd).ctx (other b) = (s.ctx (other b)).abortOther := by
  rw [← State.beforeAbort_ctx_other s b e]
  cases b <;> rfl

end Sys2Proof.Machine
end

