-- ==== Sys2Proof/Laws/Ops.lean ====
section
/-! SUPPORT. The shared operations: what each can do, said once. -/

namespace Sys2Proof.Machine

/-! ### Puts -/

@[simp] theorem Context.putBytes_nil (k : Context) : k.putBytes [] = k := rfl

/-- Two puts in a row are one put of both byte sequences (20_memory.md R47). -/
theorem Context.putBytes_putBytes (k : Context) (xs ys : List U8) :
    (k.putBytes xs).putBytes ys = k.putBytes (xs ++ ys) := by
  simp only [Context.putBytes, Memory.writeBytes_append, List.length_append, Nat.add_assoc]

theorem Context.put8_eq (k : Context) (v : U8) : k.put8 v = k.putBytes [v] := rfl

theorem Context.put16_eq (k : Context) (o : WireOrder) (v : U16) : k.put16 o v = k.putBytes (bytes16 o v) := rfl

theorem Context.putColors_eq (k : Context) (o : WireOrder) (colors : List U16) :
    k.putColors o colors = k.putBytes (colors.flatMap (bytes16 o)) := by
  unfold Context.putColors
  induction colors generalizing k with
  | nil => rfl
  | cons v vs ih => rw [List.foldl_cons, ih, put16_eq, putBytes_putBytes, List.flatMap_cons]

/-- START puts exactly its record (41_frame_encoder.md R84, 30_encoding.md R56). -/
theorem Context.writeStart_eq (k : Context) (c : Config) (d ox oy : U8) (w h : U16) :
    k.writeStart c d ox oy w h =
      { k.putBytes (startRecord c d ox oy w h) with disp := some d, stage := .headerWritten } := by
  simp only [writeStart, put8_eq, put16_eq, putBytes_putBytes, bytes16_zero, startRecord, List.append_assoc,
    List.cons_append, List.nil_append]

/-- IMAGE puts exactly its record (41_frame_encoder.md R87, 30_encoding.md R57). -/
theorem Context.writeImage_eq (k : Context) (c : Config) (p : List U8) :
    k.writeImage c p = { k.putBytes (imageRecord c p) with stage := .pixelsWritten } := by
  simp only [writeImage, put16_eq, putColors_eq, putBytes_putBytes, imageRecord, pixelRecord]

/-- BLIT puts exactly its record (41_frame_encoder.md R90, 30_encoding.md R58). -/
theorem Context.writeBlit_eq (k : Context) (c : Config) :
    k.writeBlit c = { k.putBytes (blitRecord c) with stage := .blitIssued } := by
  simp only [writeBlit, put16_eq, putBytes_putBytes, bytes16_zero, blitRecord]

/-- END puts exactly its record (41_frame_encoder.md R93, 30_encoding.md R59). -/
theorem Context.writeEnd_eq (k : Context) (c : Config) (d : U8) :
    k.writeEnd c d = { k.putBytes (endRecord c d) with stage := .closed } := by
  unfold writeEnd endRecord
  cases c.endPad <;> simp [put8_eq, put16_eq, putBytes_putBytes]

/-- A put keeps the canonical form. -/
theorem Context.wf_putBytes (k : Context) (h : k.tb.wf = true) (bs : List U8) : (k.putBytes bs).tb.wf = true :=
  Memory.wf_writeBytes k.tb h k.cursor bs

/-- What a put leaves at every offset: the bytes put at the cursor, and nothing else changed. -/
theorem Context.read_putBytes (k : Context) (h : k.tb.wf = true) (bs : List U8) (x : Nat) :
    (k.putBytes bs).tb.read x =
      if k.cursor ≤ x ∧ x < k.cursor + bs.length then bs[x - k.cursor]? else k.tb.read x :=
  Memory.read_writeBytes k.tb h k.cursor bs x

/-- A context that wrote `xs` has, after a put of `ys`, written `xs ++ ys`. -/
theorem Context.Wrote.putBytes {k : Context} {xs : List U8} (h : k.Wrote xs) (ys : List U8) :
    (k.putBytes ys).Wrote (xs ++ ys) := by
  obtain ⟨ht, hc⟩ := h
  refine ⟨?_, ?_⟩
  · rw [Context.putBytes_tb, ht, hc, Memory.ofBytes, Memory.ofBytes, Memory.writeBytes_append, Nat.zero_add]
  · rw [Context.putBytes_cursor, hc, List.length_append]

/-- The bytes HANDOFF reads of a context that wrote `bs` are `bs` (42_session_control.md R105). -/
theorem Context.Wrote.frameBytes {k : Context} {bs : List U8} (h : k.Wrote bs) (n : Nat) :
    k.frameBytes n = bs := by
  obtain ⟨ht, hc⟩ := h
  apply List.ext_getElem
  · simp [Context.frameBytes, hc]
  · intro i h1 h2
    simp [Context.frameBytes, Context.byteAt, ht, List.getElem?_eq_getElem h2]

/-- The cursor after BUFFER_OVERFLOW stays between the cursor before and the capacity (60_exceptions.md R121). -/
theorem Context.overflowed_cursor_range (k : Context) (cap n : Nat) (h : k.cursor ≤ cap) :
    k.cursor ≤ (k.overflowed cap n).cursor ∧ (k.overflowed cap n).cursor ≤ cap := by
  rw [Context.overflowed_cursor]
  have := Nat.mod_lt (Free.cursor n) (show 0 < cap - k.cursor + 1 by omega)
  omega

/-! ### Transport writes -/

/-- The last transport write of a buffer depends on the log alone (10_state.md R29). -/
theorem State.lastSent_congr {s t : State} (h : t.xferLog = s.xferLog) (b : BufId) : t.lastSent b = s.lastSent b := by
  rw [State.lastSent, State.lastSent, h]

/-- After a transport write of `b'`, it is the last one of `b'`; the last ones of the other buffer stay
(42_session_control.md R105). -/
theorem State.lastSent_append {s t : State} {b' : BufId} {bs : List U8} (h : t.xferLog = s.xferLog ++ [⟨b', bs⟩])
    (b : BufId) : t.lastSent b = if b' = b then some ⟨b', bs⟩ else s.lastSent b := by
  rw [State.lastSent, h, List.filter_append]
  by_cases hb : b' = b
  · simp [hb]
  · simp [hb, State.lastSent]

/-- The number of transport writes of a buffer depends on the log alone (10_state.md R29). -/
theorem State.sentCount_congr {s t : State} (h : t.xferLog = s.xferLog) (b : BufId) :
    t.sentCount b = s.sentCount b := by
  rw [State.sentCount, State.sentCount, h]

/-- A transport write of `b'` adds one to the count of `b'` and nothing to the other's (42_session_control.md R105). -/
theorem State.sentCount_append {s t : State} {b' : BufId} {bs : List U8} (h : t.xferLog = s.xferLog ++ [⟨b', bs⟩])
    (b : BufId) : t.sentCount b = s.sentCount b + if b' = b then 1 else 0 := by
  rw [State.sentCount, h, List.filter_append, List.length_append]
  by_cases hb : b' = b <;> simp [hb, State.sentCount]

/-! ### Outcomes -/

@[simp] theorem finish_eq (q : Nat) (r : Result) (s : State) : finish q r s = .next { s with reply := some ⟨q, r⟩ } :=
  rfl

@[simp] theorem refuse_eq (q : Nat) (r : RefuseReason) (s : State) :
    refuse q r s = .next { s with refused := true, reply := some ⟨q, .refused r⟩ } := rfl

@[simp] theorem raise_eq (q : Nat) (b : BufId) (e : ErrorKind) (cmd : CommandName) (s : State) :
    raise q b e cmd s = .next { s.abort b e cmd with reply := some ⟨q, .err e⟩ } := rfl

theorem withSession_pos {q : Nat} {s : State} (h : s.holdsSession q = true) (rest : Outcome) :
    withSession q s rest = rest := if_pos h

theorem withSession_neg {q : Nat} {s : State} (h : s.holdsSession q = false) (rest : Outcome) :
    withSession q s rest = refuse q .notOwner s := by
  simp [withSession, h]

/-- Whoever holds the session finds `BUSY` set and is the owner (41_frame_encoder.md R83). -/
theorem State.holdsSession_iff (s : State) (q : Nat) :
    s.holdsSession q = true ↔ s.busy = true ∧ s.owner = some q := by
  simp [State.holdsSession]

@[simp] theorem andThen_next (s : State) (f : State → Outcome) : andThen (.next s) f = f s := rfl
@[simp] theorem andThen_fault (r : Fault) (f : State → Outcome) : andThen (.fault r) f = .fault r := rfl
@[simp] theorem andThen_refused (r : Refusal) (f : State → Outcome) : andThen (.refused r) f = .refused r := rfl

/-- A sequence that answers a next state went through a next state of its first command. -/
theorem andThen_eq_next {o : Outcome} {f : State → Outcome} {t : State} (h : andThen o f = .next t) :
    ∃ s, o = .next s ∧ f s = .next t := by
  cases o with
  | next s => exact ⟨s, rfl, h⟩
  | fault r => cases h
  | refused r => cases h

/-- A sequence that stops at the first result other than `OK` ends there, or went on from an `OK`. -/
theorem ifOk_eq_next {o : Outcome} {f : State → Outcome} {t : State} (h : ifOk o f = .next t) :
    ∃ s, o = .next s ∧ (s.lastResult = some .ok ∧ f s = .next t ∨ s.lastResult ≠ some .ok ∧ t = s) := by
  obtain ⟨s, ho, hs⟩ := andThen_eq_next h
  refine ⟨s, ho, ?_⟩
  split at hs
  · exact .inl ⟨‹_›, hs⟩
  · exact .inr ⟨‹_›, (Host.Outcome.next.inj hs).symm⟩

/-- A send ends where its ACQUIRE is dropped, or went on from the grant. -/
theorem unlessDropped_eq_next {o : Outcome} {f : State → Outcome} {t : State} (h : unlessDropped o f = .next t) :
    ∃ s, o = .next s ∧ (s.lastResult = some .dropped ∧ t = s ∨ s.lastResult ≠ some .dropped ∧ f s = .next t) := by
  obtain ⟨s, ho, hs⟩ := andThen_eq_next h
  refine ⟨s, ho, ?_⟩
  split at hs
  · exact .inl ⟨‹_›, (Host.Outcome.next.inj hs).symm⟩
  · exact .inr ⟨‹_›, hs⟩

theorem ifOk_next_ok {s : State} {f : State → Outcome} (h : s.lastResult = some .ok) : ifOk (.next s) f = f s := by
  simp [ifOk, h]

theorem ifOk_next_not_ok {s : State} {f : State → Outcome} (h : s.lastResult ≠ some .ok) :
    ifOk (.next s) f = .next s := by
  simp [ifOk, h]

@[simp] theorem State.lastResult_reply (s : State) (y : Reply) :
    ({ s with reply := some y } : State).lastResult = some y.result := rfl

end Sys2Proof.Machine
end

