-- ==== Sys2Proof/Laws/Complete.lean ====
section
/-! SUPPORT. Where each command passes all its checks, and what it then is. -/

namespace Sys2Proof.Machine

theorem execRelease_ok {q : Nat} {s : State} (hq : s.holdsSession q = true) (hm : s.anyMidFrame = false) :
    execRelease q s = finish q .ok { s with busy := false, owner := none } := by
  rw [execRelease, withSession_pos hq, if_neg (by simp [hm])]

theorem execClear_ok {q : Nat} {b : BufId} {s : State} (hq : s.holdsSession q = true)
    (hm : (s.ctx b).stage.midFrame = false) :
    execClear q b s = finish q .ok (s.setCtx b Context.reset) := by
  rw [execClear, withSession_pos hq, if_neg (by simp [hm]), Context.cleared_eq]

theorem execStart_ok {q : Nat} {b : BufId} {d ox oy : U8} {w h : U16} {s : State}
    (hq : s.holdsSession q = true) (hst : (s.ctx b).stage = .idle) (hd : legalSelector d = true)
    (hf : s.fits b 16 = true) :
    execStart q b d ox oy w h s = finish q .ok (s.setCtx b ((s.ctx b).writeStart s.cfg d ox oy w h)) := by
  rw [execStart, withSession_pos hq, if_neg (by simp [hst]), if_neg (by simp [hd]), if_neg (by simp [hf])]

theorem execImage_ok {q : Nat} {b : BufId} {p : List U8} {s : State} (hq : s.holdsSession q = true)
    (hst : (s.ctx b).stage = .headerWritten) (hl : p.length % 4 = 0) (hr : runLength s.cfg p ≤ 0xFFFF)
    (hf : s.fits b (4 + 2 * pixelCount p) = true) :
    execImage q b p s = finish q .ok (s.setCtx b ((s.ctx b).writeImage s.cfg p)) := by
  rw [execImage, withSession_pos hq, if_neg (by simp [hst]), if_neg (by simp [hl]), if_neg (by omega),
    if_neg (by simp [hf])]

theorem execBlit_ok {q : Nat} {b : BufId} {s : State} (hq : s.holdsSession q = true)
    (hst : (s.ctx b).stage = .pixelsWritten) (hf : s.fits b 4 = true) :
    execBlit q b s = finish q .ok (s.setCtx b ((s.ctx b).writeBlit s.cfg)) := by
  rw [execBlit, withSession_pos hq, if_neg (by simp [hst]), if_neg (by simp [hf])]

theorem execEnd_ok {q : Nat} {b : BufId} {d : U8} {s : State} (hq : s.holdsSession q = true)
    (hst : (s.ctx b).stage = .blitIssued) (hd : legalSelector d = true) (hm : (s.ctx b).disp = some d)
    (hf : s.fits b (3 + s.cfg.padLen) = true) :
    execEnd q b d s = finish q .ok (s.setCtx b ((s.ctx b).writeEnd s.cfg d)) := by
  rw [execEnd, withSession_pos hq, if_neg (by simp [hst]), if_neg (by simp [hd, hm]), if_neg (by simp [hf])]

theorem execHandoff_ok {q : Nat} {b : BufId} {s : State} (hq : s.holdsSession q = true)
    (hst : (s.ctx b).stage = .closed) (hn : b ∉ s.handedOff) (hc : (s.ctx b).cursor ≤ s.cfg.capacity b) :
    execHandoff q b s = finish q .ok
      { s.setCtx b (s.ctx b).consume with
        xferLog := s.xferLog ++ [⟨b, (s.ctx b).frameBytes s.freeCount⟩]
        handedOff := s.handedOff ++ [b]
        freeCount := s.freeCount + 1 } := by
  rw [execHandoff, withSession_pos hq, if_neg (by simp [hst, hn]), if_neg (by omega)]

/-- The session check reads `BUSY` and `OWNER` alone (41_frame_encoder.md R83). -/
theorem State.holdsSession_congr {s t : State} {q : Nat} (hb : t.busy = s.busy) (ho : t.owner = s.owner) :
    t.holdsSession q = s.holdsSession q := by
  simp [State.holdsSession, hb, ho]

/-- The bound check reads the cursor and the capacity alone (20_memory.md R48). -/
theorem State.fits_iff (s : State) (b : BufId) (n : Nat) :
    s.fits b n = true ↔ (s.ctx b).cursor + n ≤ s.cfg.capacity b := by
  simp [State.fits]

end Sys2Proof.Machine
end

