-- ==== Sys2Proof/Laws/Exec.lean ====
section
/-! SUPPORT. What a command can do, said once: `Basic q s t` lists every way a single command of requester `q` can
answer the next state `t`, with the checks it passed; a pseudo-command is a sequence of such steps. Invariants are
derived from this list, not by unfolding `exec`. -/

namespace Sys2Proof.Machine

/-- Every way one command of 30_encoding.md R67 can answer a next state. -/
inductive Basic (q : Nat) (s : State) : State → Prop
  /-- A result and nothing else: a dropped ACQUIRE, QUANT, or the last `return` of a pseudo-command. -/
  | replied (r : Result) : Basic q s { s with reply := some ⟨q, r⟩ }
  /-- A refusal (60_exceptions.md R123). -/
  | refused (r : RefuseReason) : Basic q s { s with refused := true, reply := some ⟨q, .refused r⟩ }
  /-- A granted ACQUIRE (42_session_control.md R100). -/
  | granted (ha : s.transportAttached = true) (hb : s.busy = false) :
      Basic q s { s with busy := true, owner := some q, handedOff := [], reply := some ⟨q, .granted⟩ }
  /-- RELEASE (42_session_control.md R102). -/
  | released (hq : s.holdsSession q = true) (hm : s.anyMidFrame = false) :
      Basic q s { s with busy := false, owner := none, reply := some ⟨q, .ok⟩ }
  /-- CLEAR (42_session_control.md R103). -/
  | cleared (b : BufId) (hq : s.holdsSession q = true) (hm : (s.ctx b).stage.midFrame = false) :
      Basic q s { s.setCtx b Context.reset with reply := some ⟨q, .ok⟩ }
  /-- An error and its abort (60_exceptions.md R121). -/
  | raised (b : BufId) (e : ErrorKind) (cmd : CommandName) (hq : s.holdsSession q = true) :
      Basic q s { s.abort b e cmd with reply := some ⟨q, .err e⟩ }
  /-- START (41_frame_encoder.md R84). -/
  | started (b : BufId) (d ox oy : U8) (w h : U16) (hq : s.holdsSession q = true)
      (hst : (s.ctx b).stage = .idle) (hd : legalSelector d = true) (hf : s.fits b 16 = true) :
      Basic q s { s.setCtx b ((s.ctx b).writeStart s.cfg d ox oy w h) with reply := some ⟨q, .ok⟩ }
  /-- IMAGE (41_frame_encoder.md R87). -/
  | imaged (b : BufId) (p : List U8) (hq : s.holdsSession q = true)
      (hst : (s.ctx b).stage = .headerWritten) (hl : p.length % 4 = 0) (hr : runLength s.cfg p ≤ 0xFFFF)
      (hf : s.fits b (4 + 2 * pixelCount p) = true) :
      Basic q s { s.setCtx b ((s.ctx b).writeImage s.cfg p) with reply := some ⟨q, .ok⟩ }
  /-- BLIT (41_frame_encoder.md R90). -/
  | blitted (b : BufId) (hq : s.holdsSession q = true) (hst : (s.ctx b).stage = .pixelsWritten)
      (hf : s.fits b 4 = true) :
      Basic q s { s.setCtx b ((s.ctx b).writeBlit s.cfg) with reply := some ⟨q, .ok⟩ }
  /-- END (41_frame_encoder.md R93). -/
  | ended (b : BufId) (d : U8) (hq : s.holdsSession q = true) (hst : (s.ctx b).stage = .blitIssued)
      (hd : legalSelector d = true) (hm : (s.ctx b).disp = some d) (hf : s.fits b (3 + s.cfg.padLen) = true) :
      Basic q s { s.setCtx b ((s.ctx b).writeEnd s.cfg d) with reply := some ⟨q, .ok⟩ }
  /-- HANDOFF (42_session_control.md R105). -/
  | handedOff (b : BufId) (hq : s.holdsSession q = true) (hst : (s.ctx b).stage = .closed) (hn : b ∉ s.handedOff)
      (hc : (s.ctx b).cursor ≤ s.cfg.capacity b) :
      Basic q s { s.setCtx b (s.ctx b).consume with
        xferLog := s.xferLog ++ [⟨b, (s.ctx b).frameBytes s.freeCount⟩]
        handedOff := s.handedOff ++ [b]
        freeCount := s.freeCount + 1
        reply := some ⟨q, .ok⟩ }

/-- A sequence of commands of one requester. -/
abbrev Steps (q : Nat) : State → State → Prop :=
  Relation.ReflTransGen (Basic q)

theorem withSession_cases {q : Nat} {s t : State} {rest : Outcome} (h : withSession q s rest = .next t) :
    (s.holdsSession q = false ∧ Basic q s t) ∨ (s.holdsSession q = true ∧ rest = .next t) := by
  cases hq : s.holdsSession q
  · rw [withSession_neg hq] at h
    cases h
    exact .inl ⟨rfl, .refused _⟩
  · rw [withSession_pos hq] at h
    exact .inr ⟨rfl, h⟩

theorem execAcquire_cases {q : Nat} {s t : State} (h : execAcquire q s = .next t) : Basic q s t := by
  unfold execAcquire at h
  split at h
  · cases h; exact .replied _
  · split at h
    · cases h; exact .replied _
    · cases h; exact .granted (by simpa using ‹¬(!s.transportAttached) = true›) (by simpa using ‹¬s.busy = true›)

theorem execRelease_cases {q : Nat} {s t : State} (h : execRelease q s = .next t) : Basic q s t := by
  rcases withSession_cases h with ⟨_, h⟩ | ⟨hq, h⟩
  · exact h
  · split at h
    · cases h; exact .refused _
    · cases h; exact .released hq (by simpa using ‹¬s.anyMidFrame = true›)

theorem execClear_cases {q : Nat} {b : BufId} {s t : State} (h : execClear q b s = .next t) : Basic q s t := by
  rcases withSession_cases h with ⟨_, h⟩ | ⟨hq, h⟩
  · exact h
  · split at h
    · cases h; exact .refused _
    · cases h; exact .cleared b hq (by simpa using ‹¬(s.ctx b).stage.midFrame = true›)

theorem execStart_cases {q : Nat} {b : BufId} {d ox oy : U8} {w hh : U16} {s t : State}
    (h : execStart q b d ox oy w hh s = .next t) : Basic q s t := by
  rcases withSession_cases h with ⟨_, h⟩ | ⟨hq, h⟩
  · exact h
  · split at h
    · cases h; exact .raised _ _ _ hq
    · split at h
      · cases h; exact .raised _ _ _ hq
      · split at h
        · cases h; exact .raised _ _ _ hq
        · cases h; exact .started b d ox oy w hh hq (by simp_all) (by simp_all) (by simp_all)

theorem execImage_cases {q : Nat} {b : BufId} {p : List U8} {s t : State} (h : execImage q b p s = .next t) :
    Basic q s t := by
  rcases withSession_cases h with ⟨_, h⟩ | ⟨hq, h⟩
  · exact h
  · split at h
    · cases h; exact .raised _ _ _ hq
    · split at h
      · cases h; exact .raised _ _ _ hq
      · split at h
        · cases h; exact .raised _ _ _ hq
        · split at h
          · cases h; exact .raised _ _ _ hq
          · cases h; exact .imaged b p hq (by simp_all) (by omega) (by omega) (by simp_all)

theorem execBlit_cases {q : Nat} {b : BufId} {s t : State} (h : execBlit q b s = .next t) : Basic q s t := by
  rcases withSession_cases h with ⟨_, h⟩ | ⟨hq, h⟩
  · exact h
  · split at h
    · cases h; exact .raised _ _ _ hq
    · split at h
      · cases h; exact .raised _ _ _ hq
      · cases h; exact .blitted b hq (by simp_all) (by simp_all)

theorem execEnd_cases {q : Nat} {b : BufId} {d : U8} {s t : State} (h : execEnd q b d s = .next t) :
    Basic q s t := by
  rcases withSession_cases h with ⟨_, h⟩ | ⟨hq, h⟩
  · exact h
  · split at h
    · cases h; exact .raised _ _ _ hq
    · split at h
      · cases h; exact .raised _ _ _ hq
      · split at h
        · cases h; exact .raised _ _ _ hq
        · cases h; exact .ended b d hq (by simp_all) (by simp_all) (by simp_all) (by simp_all)

theorem execHandoff_cases {q : Nat} {b : BufId} {s t : State} (h : execHandoff q b s = .next t) :
    Basic q s t := by
  rcases withSession_cases h with ⟨_, h⟩ | ⟨hq, h⟩
  · exact h
  · split at h
    · cases h; exact .raised _ _ _ hq
    · split at h
      · cases h
      · cases h; exact .handedOff b hq (by simp_all) (by simp_all) (by omega)

theorem Steps.one {q : Nat} {s t : State} (h : Basic q s t) : Steps q s t :=
  Relation.ReflTransGen.single h

theorem Steps.after {q : Nat} {s t u : State} (h : Basic q s t) (h' : Steps q t u) : Steps q s u :=
  Relation.ReflTransGen.head h h'

theorem execFrame_steps {q : Nat} {b : BufId} {d ox oy : U8} {w hh : U16} {p : List U8} {s t : State}
    (h : execFrame q b d ox oy w hh p s = .next t) : Steps q s t := by
  obtain ⟨s1, h1, ⟨_, h⟩ | ⟨_, rfl⟩⟩ := ifOk_eq_next h
  · refine Steps.after (execStart_cases h1) ?_
    obtain ⟨s2, h2, ⟨_, h⟩ | ⟨_, rfl⟩⟩ := ifOk_eq_next h
    · refine Steps.after (execImage_cases h2) ?_
      obtain ⟨s3, h3, ⟨_, h⟩ | ⟨_, rfl⟩⟩ := ifOk_eq_next h
      · exact Steps.after (execBlit_cases h3) (Steps.one (execEnd_cases h))
      · exact Steps.one (execBlit_cases h3)
    · exact Steps.one (execImage_cases h2)
  · exact Steps.one (execStart_cases h1)

theorem sendHalf_steps {q : Nat} {b : BufId} {d : U8} {p : List U8} {s t : State}
    (h : sendHalf q b d p s = .next t) : Steps q s t := by
  obtain ⟨s1, h1, h⟩ := andThen_eq_next h
  exact Steps.after (execClear_cases h1) (execFrame_steps h)

theorem execSend_steps {q : Nat} {v : List U8} {dL dR : U8} {s t : State} (h : execSend q v dL dR s = .next t) :
    Steps q s t := by
  unfold execSend at h
  split at h
  · cases h; exact Steps.one (.refused _)
  · obtain ⟨s1, h1, ⟨_, rfl⟩ | ⟨_, h⟩⟩ := unlessDropped_eq_next h
    · exact Steps.one (execAcquire_cases h1)
    · refine Steps.after (execAcquire_cases h1) ?_
      obtain ⟨s2, h2, ⟨_, h⟩ | ⟨_, rfl⟩⟩ := ifOk_eq_next h
      · refine (sendHalf_steps h2).trans ?_
        obtain ⟨s3, h3, ⟨_, h⟩ | ⟨_, rfl⟩⟩ := ifOk_eq_next h
        · refine (sendHalf_steps h3).trans ?_
          obtain ⟨s4, h4, h⟩ := andThen_eq_next h
          obtain ⟨s5, h5, h⟩ := andThen_eq_next h
          obtain ⟨s6, h6, h⟩ := andThen_eq_next h
          cases h
          exact Steps.after (execHandoff_cases h4) (Steps.after (execHandoff_cases h5) (Steps.after (execRelease_cases h6)
            (Steps.one (.replied _))))
        · exact sendHalf_steps h3
      · exact sendHalf_steps h2

theorem execSend1_steps {q : Nat} {p : List U8} {d ox oy : U8} {w hh : U16} {s t : State}
    (h : execSend1 q p d ox oy w hh s = .next t) : Steps q s t := by
  obtain ⟨s1, h1, ⟨_, rfl⟩ | ⟨_, h⟩⟩ := unlessDropped_eq_next h
  · exact Steps.one (execAcquire_cases h1)
  · refine Steps.after (execAcquire_cases h1) ?_
    obtain ⟨s2, h2, h⟩ := andThen_eq_next h
    refine Steps.after (execClear_cases h2) ?_
    obtain ⟨s3, h3, ⟨_, h⟩ | ⟨_, rfl⟩⟩ := ifOk_eq_next h
    · refine (execFrame_steps h3).trans ?_
      obtain ⟨s4, h4, h⟩ := andThen_eq_next h
      obtain ⟨s5, h5, h⟩ := andThen_eq_next h
      cases h
      exact Steps.after (execHandoff_cases h4) (Steps.after (execRelease_cases h5) (Steps.one (.replied _)))
    · exact execFrame_steps h3

/-- WHAT AN INSTRUCTION CAN DO: if `exec` answers a next state, it was reached by commands of the instruction's
requester, each one of the ways `Basic` lists. -/
theorem exec_steps {i : Instr} {s t : State} (h : exec i s = .next t) :
    ∃ q, i.requester = some q ∧ Steps q s t := by
  cases i with
  | startOfData d ox oy w hh => cases h
  | transmitPixels rl colors => cases h
  | blitTrigger => cases h
  | endOfData d => cases h
  | endOfDataPad d => cases h
  | repeatRun => cases h
  | skipRun => cases h
  | acquire q => exact ⟨q, rfl, Steps.one (execAcquire_cases h)⟩
  | release q => exact ⟨q, rfl, Steps.one (execRelease_cases h)⟩
  | clear q b => exact ⟨q, rfl, Steps.one (execClear_cases h)⟩
  | start q b d ox oy w hh => exact ⟨q, rfl, Steps.one (execStart_cases h)⟩
  | image q b p => exact ⟨q, rfl, Steps.one (execImage_cases h)⟩
  | blit q b => exact ⟨q, rfl, Steps.one (execBlit_cases h)⟩
  | endCmd q b d => exact ⟨q, rfl, Steps.one (execEnd_cases h)⟩
  | handoff q b => exact ⟨q, rfl, Steps.one (execHandoff_cases h)⟩
  | quant q r g bl a => cases h; exact ⟨q, rfl, Steps.one (.replied _)⟩
  | frame q b d ox oy w hh p => exact ⟨q, rfl, execFrame_steps h⟩
  | send q v dL dR => exact ⟨q, rfl, execSend_steps h⟩
  | send1 q p d ox oy w hh => exact ⟨q, rfl, execSend1_steps h⟩

/-- A requester that a well-formed instruction names exists (00_scope.md R13). -/
theorem requester_exists {c : Config} {i : Instr} {q : Nat} (hw : i.wf c = true) (hq : i.requester = some q) :
    q < c.numReq := by
  cases i <;> simp_all [Instr.requester, Instr.wf, legalRequester]

/-- A property that every single command keeps is kept by a sequence of commands. -/
theorem Steps.induct {q : Nat} {P : State → Prop} (hP : ∀ s t, Basic q s t → P s → P t) {s t : State}
    (h : Steps q s t) (hs : P s) : P t := by
  induction h with
  | refl => exact hs
  | tail _ hb ih => exact hP _ _ hb ih

end Sys2Proof.Machine
end

