-- ==== Sys2Proof/Laws/PerInstr.lean ====
section
/-! SUPPORT. Statements made per instruction. -/

namespace Sys2Proof.Laws.WellFormedEncodes

open Sys2Proof

/-- A well-formed instruction has a written form: its record (30_encoding.md R56 to R59) or its assembler line (R68). -/
def Statement (i : Instr) : Prop :=
  ∀ c : Config, i.wf c = true → (encode c i).isSome = true

theorem startOfData (d ox oy : U8) (w h : U16) : Statement (.startOfData d ox oy w h) :=
  fun _ _ => rfl

theorem transmitPixels (rl : U16) (colors : List U16) : Statement (.transmitPixels rl colors) :=
  fun _ _ => rfl

theorem blitTrigger : Statement .blitTrigger :=
  fun _ _ => rfl

/-- The unpadded END record is written where `END_PAD = false` (30_encoding.md R59). -/
theorem endOfData (d : U8) : Statement (.endOfData d) := by
  intro c hw
  have he : c.endPad = false := by simpa using (Bool.and_eq_true_iff.mp hw).2
  simp [encode, encodeRecord, Asm.printLine, Asm.parts, he]

/-- The padded END record is written where `END_PAD = true` (30_encoding.md R59). -/
theorem endOfDataPad (d : U8) : Statement (.endOfDataPad d) := by
  intro c hw
  have he : c.endPad = true := (Bool.and_eq_true_iff.mp hw).2
  simp [encode, encodeRecord, Asm.printLine, Asm.parts, he]

theorem repeatRun : Statement .repeatRun :=
  fun _ hw => absurd hw Bool.false_ne_true

theorem skipRun : Statement .skipRun :=
  fun _ hw => absurd hw Bool.false_ne_true

theorem acquire (q : Nat) : Statement (.acquire q) :=
  fun _ _ => rfl

theorem release (q : Nat) : Statement (.release q) :=
  fun _ _ => rfl

theorem clear (q : Nat) (b : BufId) : Statement (.clear q b) :=
  fun _ _ => rfl

theorem start (q : Nat) (b : BufId) (d ox oy : U8) (w h : U16) : Statement (.start q b d ox oy w h) :=
  fun _ _ => rfl

theorem image (q : Nat) (b : BufId) (p : List U8) : Statement (.image q b p) :=
  fun _ _ => rfl

theorem blit (q : Nat) (b : BufId) : Statement (.blit q b) :=
  fun _ _ => rfl

theorem endCmd (q : Nat) (b : BufId) (d : U8) : Statement (.endCmd q b d) :=
  fun _ _ => rfl

theorem handoff (q : Nat) (b : BufId) : Statement (.handoff q b) :=
  fun _ _ => rfl

theorem quant (q : Nat) (r g bl a : U8) : Statement (.quant q r g bl a) :=
  fun _ _ => rfl

theorem frame (q : Nat) (b : BufId) (d ox oy : U8) (w h : U16) (p : List U8) :
    Statement (.frame q b d ox oy w h p) :=
  fun _ _ => rfl

theorem send (q : Nat) (v : List U8) (dL dR : U8) : Statement (.send q v dL dR) :=
  fun _ _ => rfl

theorem send1 (q : Nat) (p : List U8) (d ox oy : U8) (w h : U16) : Statement (.send1 q p d ox oy w h) :=
  fun _ _ => rfl

end Sys2Proof.Laws.WellFormedEncodes
end

