-- ==== Sys2Proof/Laws/Queue.lean ====
section
/-! SUPPORT. The input queue and the commands: no command reads or writes what is still pending, so a command does
the same whatever waits behind it (log 4). -/

namespace Sys2Proof.Machine

/-- The state with another input queue. -/
abbrev State.withPending (s : State) (p : List HostInput) : State :=
  { s with pending := p }

theorem State.withPending_ctx (s : State) (p : List HostInput) (b : BufId) : (s.withPending p).ctx b = s.ctx b := by
  cases b <;> rfl

theorem State.withPending_setCtx (s : State) (p : List HostInput) (b : BufId) (k : Context) :
    (s.withPending p).setCtx b k = (s.setCtx b k).withPending p := by
  cases b <;> rfl

theorem State.withPending_fits (s : State) (p : List HostInput) (b : BufId) (n : Nat) :
    (s.withPending p).fits b n = s.fits b n := by
  cases b <;> rfl

theorem State.withPending_abort (s : State) (p : List HostInput) (b : BufId) (e : ErrorKind) (cmd : CommandName) :
    (s.withPending p).abort b e cmd = (s.abort b e cmd).withPending p := by
  cases b <;> cases e <;> rfl

/-- An outcome that does not depend on what is pending. -/
def Blind (f : State → Outcome) : Prop :=
  ∀ (s t : State) (p : List HostInput), f s = .next t → f (s.withPending p) = .next (t.withPending p)

theorem Blind.finish (q : Nat) (r : Result) : Blind (finish q r) := by
  intro s t p h
  cases h
  rfl

theorem Blind.refuse (q : Nat) (r : RefuseReason) : Blind (refuse q r) := by
  intro s t p h
  cases h
  rfl

theorem Blind.raise (q : Nat) (b : BufId) (e : ErrorKind) (cmd : CommandName) : Blind (raise q b e cmd) := by
  intro s t p h
  cases h
  rw [raise_eq, State.withPending_abort]

theorem Blind.setCtx (q : Nat) (b : BufId) (r : Result) (k : Config → Context → Context) :
    Blind fun s => Machine.finish q r (s.setCtx b (k s.cfg (s.ctx b))) := by
  intro s t p h
  cases h
  cases b <;> rfl

theorem Blind.andThen {f : State → Outcome} {g : State → Outcome} (hf : Blind f) (hg : Blind g) :
    Blind fun s => andThen (f s) g := by
  intro s t p h
  obtain ⟨u, hu, ht⟩ := andThen_eq_next h
  show Machine.andThen (f (s.withPending p)) g = _
  rw [hf s u p hu, andThen_next, hg u t p ht]

/-- The choice that a command makes on a part of the state that is not the queue. -/
theorem Blind.ite {c : State → Prop} [DecidablePred c] {f g : State → Outcome}
    (hc : ∀ (s : State) (p : List HostInput), c (s.withPending p) ↔ c s) (hf : Blind f) (hg : Blind g) :
    Blind fun s => if c s then f s else g s := by
  intro s t p h
  show (if c (s.withPending p) then f (s.withPending p) else g (s.withPending p)) = _
  by_cases hs : c s
  · rw [if_pos ((hc s p).mpr hs)]
    exact hf s t p ((if_pos hs).symm.trans h)
  · rw [if_neg (fun h' => hs ((hc s p).mp h'))]
    exact hg s t p ((if_neg hs).symm.trans h)

theorem Blind.ifOk {f g : State → Outcome} (hf : Blind f) (hg : Blind g) : Blind fun s => ifOk (f s) g :=
  Blind.andThen hf (Blind.ite (fun _ _ => Iff.rfl) hg fun _ _ _ h => by cases h; rfl)

theorem Blind.unlessDropped {f g : State → Outcome} (hf : Blind f) (hg : Blind g) :
    Blind fun s => unlessDropped (f s) g :=
  Blind.andThen hf (Blind.ite (fun _ _ => Iff.rfl) (fun _ _ _ h => by cases h; rfl) hg)

theorem Blind.withSession {q : Nat} {f : State → Outcome} (hf : Blind f) : Blind fun s => withSession q s (f s) :=
  Blind.ite (c := fun s => s.holdsSession q = true) (fun _ _ => Iff.rfl) hf (Blind.refuse q .notOwner)

theorem execAcquire_blind (q : Nat) : Blind (execAcquire q) :=
  Blind.ite (fun _ _ => Iff.rfl) (Blind.finish q .dropped)
    (Blind.ite (fun _ _ => Iff.rfl) (Blind.finish q .dropped) fun _ _ _ h => by cases h; rfl)

theorem execRelease_blind (q : Nat) : Blind (execRelease q) :=
  Blind.withSession (Blind.ite (fun _ _ => Iff.rfl) (Blind.refuse q .midFrame) fun _ _ _ h => by cases h; rfl)

theorem execClear_blind (q : Nat) (b : BufId) : Blind (execClear q b) :=
  Blind.withSession (Blind.ite (fun s p => by rw [State.withPending_ctx]) (Blind.refuse q .midFrame)
    (Blind.setCtx q b .ok fun _ k => k.cleared))

theorem execStart_blind (q : Nat) (b : BufId) (d ox oy : U8) (w h : U16) : Blind (execStart q b d ox oy w h) :=
  Blind.withSession (Blind.ite (fun s p => by rw [State.withPending_ctx]) (Blind.raise q b _ _)
    (Blind.ite (fun _ _ => Iff.rfl) (Blind.raise q b _ _)
      (Blind.ite (fun s p => by rw [State.withPending_fits]) (Blind.raise q b _ _)
        (Blind.setCtx q b .ok fun c k => k.writeStart c d ox oy w h))))

theorem execImage_blind (q : Nat) (b : BufId) (p : List U8) : Blind (execImage q b p) :=
  Blind.withSession (Blind.ite (fun s p => by rw [State.withPending_ctx]) (Blind.raise q b _ _)
    (Blind.ite (fun _ _ => Iff.rfl) (Blind.raise q b _ _)
      (Blind.ite (fun _ _ => Iff.rfl) (Blind.raise q b _ _)
        (Blind.ite (fun s p => by rw [State.withPending_fits]) (Blind.raise q b _ _)
          (Blind.setCtx q b .ok fun c k => k.writeImage c p)))))

theorem execBlit_blind (q : Nat) (b : BufId) : Blind (execBlit q b) :=
  Blind.withSession (Blind.ite (fun s p => by rw [State.withPending_ctx]) (Blind.raise q b _ _)
    (Blind.ite (fun s p => by rw [State.withPending_fits]) (Blind.raise q b _ _)
      (Blind.setCtx q b .ok fun c k => k.writeBlit c)))

theorem execEnd_blind (q : Nat) (b : BufId) (d : U8) : Blind (execEnd q b d) :=
  Blind.withSession (Blind.ite (fun s p => by rw [State.withPending_ctx]) (Blind.raise q b _ _)
    (Blind.ite (fun s p => by rw [State.withPending_ctx]) (Blind.raise q b _ _)
      (Blind.ite (c := fun s => (!s.fits b (3 + s.cfg.padLen)) = true) (fun s p => by rw [State.withPending_fits])
        (Blind.raise q b _ _) (Blind.setCtx q b .ok fun c k => k.writeEnd c d))))

theorem execHandoff_blind (q : Nat) (b : BufId) : Blind (execHandoff q b) :=
  Blind.withSession (Blind.ite (c := fun s => (s.ctx b).stage ≠ .closed ∨ b ∈ s.handedOff)
    (fun s p => by rw [State.withPending_ctx]) (Blind.raise q b _ _)
    (Blind.ite (c := fun s => s.cfg.capacity b < (s.ctx b).cursor) (fun s p => by rw [State.withPending_ctx])
      (fun _ _ _ h => by cases h) fun s t p h => by cases h; cases b <;> rfl))

theorem execQuant_blind (q : Nat) (r g bl a : U8) : Blind (execQuant q r g bl a) :=
  Blind.finish q _

theorem execFrame_blind (q : Nat) (b : BufId) (d ox oy : U8) (w h : U16) (p : List U8) :
    Blind (execFrame q b d ox oy w h p) :=
  Blind.ifOk (execStart_blind q b d ox oy w h)
    (Blind.ifOk (execImage_blind q b p) (Blind.ifOk (execBlit_blind q b) (execEnd_blind q b d)))

theorem sendHalf_blind (q : Nat) (b : BufId) (d : U8) (p : List U8) : Blind (sendHalf q b d p) :=
  Blind.andThen (execClear_blind q b) fun s t pend h => execFrame_blind q b d 0 0 s.cfg.halfW s.cfg.height p s t pend h

/-- SEND after its check of the bitmap's length, for a fixed geometry. -/
theorem sendRest_blind (q : Nat) (l r : List U8) (dL dR : U8) :
    Blind fun s =>
      unlessDropped (execAcquire q s) fun s1 =>
        ifOk (sendHalf q .tb0 dL l s1) fun s2 =>
          ifOk (sendHalf q .tb1 dR r s2) fun s3 =>
            andThen (execHandoff q .tb0 s3) fun s4 =>
              andThen (execHandoff q .tb1 s4) fun s5 => andThen (execRelease q s5) (finish q .ok) :=
  Blind.unlessDropped (execAcquire_blind q) (Blind.ifOk (sendHalf_blind q .tb0 dL l)
    (Blind.ifOk (sendHalf_blind q .tb1 dR r) (Blind.andThen (execHandoff_blind q .tb0)
      (Blind.andThen (execHandoff_blind q .tb1) (Blind.andThen (execRelease_blind q) (Blind.finish q .ok))))))

theorem execSend_blind (q : Nat) (v : List U8) (dL dR : U8) : Blind (execSend q v dL dR) :=
  Blind.ite (fun _ _ => Iff.rfl) (Blind.refuse q .badSendInput) fun s t p h =>
    sendRest_blind q (leftHalf s.cfg v) (rightHalf s.cfg v) dL dR s t p h

theorem execSend1_blind (q : Nat) (p : List U8) (d ox oy : U8) (w h : U16) : Blind (execSend1 q p d ox oy w h) :=
  Blind.unlessDropped (execAcquire_blind q) (Blind.andThen (execClear_blind q .tb0)
    (Blind.ifOk (execFrame_blind q .tb0 d ox oy w h p) (Blind.andThen (execHandoff_blind q .tb0)
      (Blind.andThen (execRelease_blind q) (Blind.finish q .ok)))))

/-- No command depends on what is pending behind it. -/
theorem exec_blind (i : Instr) : Blind (exec i) := by
  cases i with
  | startOfData d ox oy w h => exact fun _ _ _ h => nomatch h
  | transmitPixels rl colors => exact fun _ _ _ h => nomatch h
  | blitTrigger => exact fun _ _ _ h => nomatch h
  | endOfData d => exact fun _ _ _ h => nomatch h
  | endOfDataPad d => exact fun _ _ _ h => nomatch h
  | repeatRun => exact fun _ _ _ h => nomatch h
  | skipRun => exact fun _ _ _ h => nomatch h
  | acquire q => exact execAcquire_blind q
  | release q => exact execRelease_blind q
  | clear q b => exact execClear_blind q b
  | start q b d ox oy w h => exact execStart_blind q b d ox oy w h
  | image q b p => exact execImage_blind q b p
  | blit q b => exact execBlit_blind q b
  | endCmd q b d => exact execEnd_blind q b d
  | handoff q b => exact execHandoff_blind q b
  | quant q r g bl a => exact execQuant_blind q r g bl a
  | frame q b d ox oy w h p => exact execFrame_blind q b d ox oy w h p
  | send q v dL dR => exact execSend_blind q v dL dR
  | send1 q p d ox oy w h => exact execSend1_blind q p d ox oy w h

/-- A run whose first step answers a next state goes on from there. -/
theorem run_succ (M : Host.Core) (k : Nat) {s t : M.State} (h : M.step s = .next t) : M.run (k + 1) s = M.run k t := by
  simp only [Host.Core.run, h]

/-- Running a queue whose first input is a command with typed operands: that command, then the rest of the queue. -/
theorem run_command {i : Instr} {s t : State} {rest : List HostInput} (k : Nat) (hw : i.wf s.cfg = true)
    (h : exec i s = .next t) :
    Host.Core.run core (k + 1) (s.withPending (.present (.command i) :: rest)) =
      Host.Core.run core k (t.withPending rest) := by
  have hs : core.step (s.withPending (.present (.command i) :: rest)) = .next (t.withPending rest) := by
    show step (s.withPending (.present (.command i) :: rest)) = _
    simp only [step, presented, decode]
    rw [if_pos hw]
    exact exec_blind i s t rest h
  exact run_succ core k hs

end Sys2Proof.Machine
end

