-- ==== Sys2Proof/Laws/Step.lean ====
section
/-! SUPPORT. What a step can do, said once: nothing, the host's change of `TRANSPORT_ATTACHED`, or a sequence of
commands of one existing requester. An invariant is three small goals. -/

namespace Sys2Proof.Machine

/-- What a transaction presents, if it presents anything, is what it decodes to, and well formed. -/
theorem presented_eq_ok {c : Config} {t : Transaction} {i : Instr} (h : presented c t = .ok i) :
    decode c t = .ok i ∧ i.wf c = true := by
  unfold presented at h
  split at h
  · cases h
  · split at h
    · cases h; exact ⟨‹_›, ‹_›⟩
    · cases h

/-- WHAT A STEP CAN DO. -/
theorem step_cases {s t : State} (h : step s = .next t) :
    t = s ∨ (∃ on, t = s.taken.attach on) ∨ ∃ q, q < s.cfg.numReq ∧ Steps q s.taken t := by
  unfold step at h
  split at h
  · cases h; exact .inl rfl
  · cases h; exact .inr (.inl ⟨_, rfl⟩)
  · split at h
    · rename_i hi
      obtain ⟨_, hw⟩ := presented_eq_ok hi
      obtain ⟨q, hq, hs⟩ := exec_steps h
      exact .inr (.inr ⟨q, requester_exists hw hq, hs⟩)
    · cases h

/-- An invariant that a single command of an existing requester keeps, that ignores what is pending and the host
input, and that fixes how many requesters there are, is kept by every step. -/
theorem step_induct {P : State → Prop} (hBasic : ∀ q s t, q < s.cfg.numReq → Basic q s t → P s → P t)
    (hCfg : ∀ q s t, Basic q s t → t.cfg = s.cfg) (hTaken : ∀ s, P s → P s.taken)
    (hAttach : ∀ s on, P s → P (s.attach on)) {s t : State} (h : step s = .next t) (hs : P s) : P t := by
  rcases step_cases h with rfl | ⟨on, rfl⟩ | ⟨q, hq, hst⟩
  · exact hs
  · exact hAttach _ on (hTaken s hs)
  · have := Steps.induct (P := fun u => P u ∧ u.cfg = s.cfg)
      (fun u v hb hu => ⟨hBasic q u v (hu.2 ▸ hq) hb hu.1, (hCfg q u v hb).trans hu.2⟩) hst ⟨hTaken s hs, rfl⟩
    exact this.1

/-- No command writes a parameter (10_state.md R20). -/
theorem Basic.cfg {q : Nat} {s t : State} (h : Basic q s t) : t.cfg = s.cfg := by
  cases h <;> simp

end Sys2Proof.Machine
end

