-- ==== Sys2Proof/Tests/Slice0.lean ====
section
/-! SUPPORT. The model's own tests. The expected values are those of spec/95_test_vectors.md (its vector is named) or
written out by hand from the rule named. The last part shows, for every obligation with hypotheses, concrete states
and operands that meet them. -/

namespace Sys2Proof.Tests

open Sys2Proof Sys2Proof.Machine Sys2Proof.Claims

/-! ### Start states -/

/-- `T1` with the geometry of 95_test_vectors.md P3. -/
def narrow : Config := { Config.t1 with halfW := 2, height := 1 }

/-- Requester 0 holds the session, everything else as after reset. -/
def held (c : Config) : State := { State.resetWith c true with busy := true, owner := some 0 }

/-- Requester 0 holds the session, and context 0 is at a stage with the selector 1 and these bytes. -/
def heldAt (c : Config) (stage : Stage) (bs : List U8) : State :=
  { held c with ctx0 := ⟨stage, bs.length, some 1, none, Memory.ofBytes bs⟩ }

/-- The bytes of V-S1. -/
def vS1 : List U8 := [0xF0, 0x01, 0x01, 0xA5, 0, 0, 0, 0, 0, 0, 0x02, 0x03, 0x01, 0xE0, 0x01, 0x68]

/-- The bytes up to V-I1. -/
def vI1 : List U8 := vS1 ++ [0xF0, 0x02, 0x00, 0x01, 0x35, 0x64]

/-- The bytes up to V-B1. -/
def vB1 : List U8 := vI1 ++ [0xF0, 0x03, 0x00, 0x00]

/-- The bytes of the whole frame V-F1. -/
def vF1 : List U8 := vB1 ++ [0xF0, 0x04, 0x01]

/-- The pixel input of the white pixel (W1). -/
def white : List U8 := [255, 255, 255, 255]

/-- The virtual bitmap of P3. -/
def vP3 : List U8 := [255, 255, 255, 255, 0, 0, 0, 0, 128, 128, 128, 255, 10, 20, 30, 40]

/-- The frame operands of V-F1. -/
def fF1 : FrameArgs := ⟨1, 2, 3, 480, 360, white⟩

/-- Whether an outcome is a next state with a result and a property. -/
def gives (o : Outcome) (r : Result) (p : State → Bool) : Bool :=
  match o with
  | .next t => decide (t.lastResult = some r) && p t
  | .fault _ => false
  | .refused _ => false

/-- Whether a context has this stage, cursor, selector and error, and exactly these bytes. -/
def holds (k : Context) (stage : Stage) (cursor : Nat) (disp : Option U8) (err : Nat) (bs : List U8) : Bool :=
  decide (k.stage = stage ∧ k.cursor = cursor ∧ k.disp = disp ∧ errNumber k.err = err ∧ k.tb = Memory.ofBytes bs)

/-- The error of a decoding that is rejected. -/
def rejects (c : Config) (t : Transaction) (e : DecodeError) : Bool :=
  match decode c t with
  | .ok _ => false
  | .error e' => decide (e' = e)

/-- Whether a line decodes, without named inputs, to an instruction. -/
def reads (text : String) (i : Instr) : Bool :=
  match decode Config.t1 (.line text.toList []) with
  | .ok i' => decide (i' = i)
  | .error _ => false

/-! ### Well-formedness: an ill-formed term for each check -/

theorem test_wf_selector_refused :
    (Instr.startOfData 2 0 0 1 1).wf Config.t1 = false ∧ (Instr.endOfData 7).wf Config.t1 = false ∧
      (Instr.endOfDataPad 2).wf Config.t2 = false := by decide

theorem test_wf_run_length_refused : (Instr.transmitPixels 2 [0]).wf Config.t1 = false := by decide

theorem test_wf_end_form_refused :
    (Instr.endOfDataPad 1).wf Config.t1 = false ∧ (Instr.endOfData 1).wf Config.t2 = false := by decide

theorem test_wf_reserved_refused :
    Instr.repeatRun.wf Config.t1 = false ∧ Instr.skipRun.wf Config.t1 = false := by decide

theorem test_wf_requester_refused :
    [Instr.acquire 2, .release 2, .clear 2 .tb0, .start 2 .tb0 0 0 0 1 1, .image 2 .tb0 [], .blit 2 .tb0,
      .endCmd 2 .tb0 0, .handoff 2 .tb0, .quant 2 0 0 0 0, .frame 2 .tb0 0 0 0 1 1 [], .send 2 [] 0 1,
      .send1 2 [] 0 0 0 1 1].all (fun i => !i.wf Config.t1) = true := by decide

theorem test_wf_accepts :
    [Instr.startOfData 1 2 3 480 360, .transmitPixels 1 [0x3564], .blitTrigger, .endOfData 1, .acquire 1,
      .start 0 .tb0 255 0 0 0 0].all (fun i => i.wf Config.t1) = true := by decide

theorem test_wf_params :
    Config.t1.wf = true ∧ Config.t2.wf = true ∧ ({ Config.t1 with opEnd := 0xF001 } : Config).wf = false ∧
      ({ Config.t1 with blockFactor := 0 } : Config).wf = false ∧
      ({ Config.t1 with numReq := 0 } : Config).wf = false := by decide

/-! ### Decoding: the words of every row -/

theorem test_decode_start_of_data :
    decode Config.t1 (.wire vS1) = .ok (.startOfData 1 2 3 480 360) ∧
      decode Config.t2 (.wire [0x01, 0xF0, 0x01, 0xA5, 0, 0, 0, 0, 0, 0, 0x02, 0x03, 0xE0, 0x01, 0x68, 0x01]) =
        .ok (.startOfData 1 2 3 480 360) := by decide

theorem test_decode_transmit_pixels :
    decode Config.t1 (.wire [0xF0, 0x02, 0x00, 0x01, 0x35, 0x64]) = .ok (.transmitPixels 1 [0x3564]) ∧
      decode Config.t2 (.wire [0x02, 0xF0, 0x01, 0x00, 0x81, 0x21, 0x40, 0x15, 0x00, 0x00]) =
        .ok (.transmitPixels 1 [0x2181, 0x1540, 0]) := by decide

theorem test_decode_blit_trigger : decode Config.t1 (.wire [0xF0, 0x03, 0x00, 0x00]) = .ok .blitTrigger := by decide

theorem test_decode_end_of_data : decode Config.t1 (.wire [0xF0, 0x04, 0x01]) = .ok (.endOfData 1) := by decide

theorem test_decode_end_of_data_pad :
    decode Config.t2 (.wire [0x04, 0xF0, 0x01, 0x00]) = .ok (.endOfDataPad 1) := by decide

theorem test_decode_table_word :
    decodeTableWord 128 0xF00101A5000000000000020301E00168 = some (.startOfData 1 2 3 480 360) ∧
      decodeTableWord 32 0xF0030000 = some .blitTrigger ∧ decodeTableWord 24 0xF00401 = some (.endOfData 1) := by
  decide

theorem test_decode_acquire : reads "1: ACQUIRE" (.acquire 1) = true := by decide
theorem test_decode_release : reads "RELEASE ; of requester 0" (.release 0) = true := by decide
theorem test_decode_clear : reads "1: CLEAR 0" (.clear 1 .tb0) = true := by decide
theorem test_decode_start : reads "0: START 1, 1, 2, 3, 480, 0x168" (.start 0 .tb1 1 2 3 480 360) = true := by decide
theorem test_decode_image : reads "0: IMAGE 0, [(10,20,30,40)]" (.image 0 .tb0 [10, 20, 30, 40]) = true := by decide
theorem test_decode_blit : reads "0: BLIT 1" (.blit 0 .tb1) = true := by decide
theorem test_decode_end : reads "0: END 0, 1" (.endCmd 0 .tb0 1) = true := by decide
theorem test_decode_handoff : reads "0: HANDOFF 0" (.handoff 0 .tb0) = true := by decide
theorem test_decode_quant : reads "0: QUANT 10, 20, 30, 40" (.quant 0 10 20 30 40) = true := by decide

theorem test_decode_frame :
    reads "0: FRAME 0, 1, 2, 3, 480, 360, [(255,255,255,255)]" (.frame 0 .tb0 1 2 3 480 360 white) = true := by decide

theorem test_decode_send :
    decode Config.t1 (.line "0: SEND @v, 0, 1".toList [(['v'], vP3)]) = .ok (.send 0 vP3 0 1) := by decide

theorem test_decode_send1 :
    reads "0: SEND1 [(1,2,3,4)], 0, 0, 0, 1, 1" (.send1 0 [1, 2, 3, 4] 0 0 0 1 1) = true := by decide

/-- Rejected records: 30_encoding.md R56 to R59, R62, R64, R65. The repeat and skip runs have no opcode (R66). -/
theorem test_decode_rejects_records :
    rejects Config.t1 (.wire [0xF0]) .truncated = true ∧
      rejects Config.t1 (.wire [0xF0, 0x05, 0, 0]) .unknownOpcode = true ∧
      rejects Config.t1 (.wire (vS1 ++ [0])) .recordLength = true ∧
      rejects Config.t1 (.wire (vS1.set 3 0xA4)) .modeByte = true ∧
      rejects Config.t1 (.wire (vS1.set 9 1)) .reservedNotZero = true ∧
      rejects Config.t1 (.wire (vS1.set 2 2)) .selector = true ∧
      rejects Config.t1 (.wire [0xF0, 0x02, 0x00, 0x02, 0x35, 0x64]) .runLength = true ∧
      rejects Config.t1 (.wire [0xF0, 0x03, 0x00, 0x01]) .reservedNotZero = true ∧
      rejects Config.t1 (.wire [0xF0, 0x04, 0x01, 0x00]) .recordLength = true ∧
      rejects Config.t2 (.wire [0x04, 0xF0, 0x01]) .recordLength = true := by decide

/-- Rejected lines: 30_encoding.md R61, R67, R68, R71. -/
theorem test_decode_rejects_lines :
    rejects Config.t1 (.line "0: CLEAR 0.".toList []) .badCharacter = true ∧
      rejects Config.t1 (.line "0: CLEAR 0x".toList []) .badNumber = true ∧
      rejects Config.t1 (.line "  ; nothing".toList []) .emptyLine = true ∧
      rejects Config.t1 (.line "0: JUMP 0".toList []) .badMnemonic = true ∧
      rejects Config.t1 (.line "0: BLIT 0,".toList []) .badOperand = true ∧
      rejects Config.t1 (.line "0: BLIT".toList []) .operandForm = true ∧
      rejects Config.t1 (.line "0: BLIT 2".toList []) .operandRange = true ∧
      rejects Config.t1 (.line "0: QUANT 256, 0, 0, 0".toList []) .operandRange = true ∧
      rejects Config.t1 (.line "0: IMAGE 0, @v".toList []) .unknownInput = true := by decide

/-! ### Single steps -/

/-- V-Q2, V-Q14, V-Q19, V-Q24 and the rule that alpha has no effect. -/
theorem test_quant :
    gives (exec (.quant 0 255 255 255 255) State.reset) (.okValue 0x3564) (fun _ => true) = true ∧
      quantize 0 192 14 0 = 0x1000 ∧ quantize 0 0 224 0 = 0 ∧ quantize 10 20 30 40 = 0x2181 ∧
      quantize 10 20 30 41 = 0x2181 := by decide

/-- V-S1. -/
theorem test_start_V_S1 :
    gives (exec (.start 0 .tb0 1 2 3 480 360) (held Config.t1)) .ok
      (fun t => holds t.ctx0 .headerWritten 16 (some 1) 0 vS1) = true := by decide

/-- V-S4. -/
theorem test_start_V_S4 :
    gives (exec (.start 0 .tb0 2 0 0 1 1) (held Config.t1)) (.err .fieldRange)
      (fun t => holds t.ctx0 .aborted 0 none 4 [] && !t.busy && decide (t.owner = none)) = true := by decide

/-- V-I3: little-endian, run length `3 div 2`. -/
theorem test_image_V_I3 :
    gives (exec (.image 0 .tb0 [10, 20, 30, 40, 0, 255, 14, 0, 0, 0, 224, 0]) (heldAt Config.t2 .headerWritten vS1)) .ok
      (fun t => holds t.ctx0 .pixelsWritten 26 (some 1) 0
        (vS1 ++ [0x02, 0xF0, 0x01, 0x00, 0x81, 0x21, 0x40, 0x15, 0x00, 0x00])) = true := by decide

/-- V-I5. -/
theorem test_image_V_I5 :
    gives (exec (.image 0 .tb0 [1, 2, 3, 4, 5]) (heldAt Config.t1 .headerWritten vS1)) (.err .malformedBitmap)
      (fun t => holds t.ctx0 .aborted 16 (some 1) 1 vS1 && decide (t.errLog = [⟨.tb0, .malformedBitmap, .image⟩])) =
      true := by decide

/-- V-B1. -/
theorem test_blit_V_B1 :
    gives (exec (.blit 0 .tb0) (heldAt Config.t1 .pixelsWritten vI1)) .ok
      (fun t => holds t.ctx0 .blitIssued 26 (some 1) 0 vB1) = true := by decide

/-- V-B3. -/
theorem test_blit_V_B3 :
    gives (exec (.blit 0 .tb0) (heldAt Config.t1 .headerWritten vS1)) (.err .sequenceError)
      (fun t => holds t.ctx0 .aborted 16 (some 1) 3 vS1) = true := by decide

/-- V-E1, and V-E2 of its END record. -/
theorem test_end_V_E1 :
    gives (exec (.endCmd 0 .tb0 1) (heldAt Config.t1 .blitIssued vB1)) .ok
        (fun t => holds t.ctx0 .closed 29 (some 1) 0 vF1) = true ∧
      gives (exec (.endCmd 0 .tb0 1) (heldAt Config.t2 .blitIssued vB1)) .ok
        (fun t => holds t.ctx0 .closed 30 (some 1) 0 (vB1 ++ [0x04, 0xF0, 0x01, 0x00])) = true := by decide

/-- V-E3. -/
theorem test_end_V_E3 :
    gives (exec (.endCmd 0 .tb0 0) (heldAt Config.t1 .blitIssued vB1)) (.err .fieldRange)
      (fun t => holds t.ctx0 .aborted 26 (some 1) 4 vB1) = true := by decide

/-- V-F1. -/
theorem test_frame_V_F1 :
    gives (exec (.frame 0 .tb0 1 2 3 480 360 white) (held Config.t1)) .ok
      (fun t => holds t.ctx0 .closed 29 (some 1) 0 vF1) = true := by decide

/-- V-F3. -/
theorem test_frame_V_F3 :
    gives (exec (.frame 0 .tb0 0 0 0 1 1 [1, 2, 3]) (held Config.t1)) (.err .malformedBitmap)
      (fun t => decide (t.ctx0.stage = .aborted ∧ t.ctx0.cursor = 16)) = true := by decide

/-- V-A1, V-A2, V-A4. -/
theorem test_acquire :
    gives (exec (.acquire 0) State.reset) .granted (fun t => t.busy && decide (t.owner = some 0)) = true ∧
      gives (exec (.acquire 1) (held Config.t1)) .dropped (fun t => decide (t.owner = some 0)) = true ∧
      gives (exec (.acquire 0) (State.resetWith Config.t1 false)) .dropped (fun t => !t.busy) = true := by decide

/-- V-R1, V-R2, V-R3. -/
theorem test_release :
    gives (exec (.release 0) (held Config.t1)) .ok (fun t => !t.busy && decide (t.owner = none)) = true ∧
      gives (exec (.release 1) (held Config.t1)) (.refused .notOwner) (fun t => t.busy && t.refused) = true ∧
      gives (exec (.release 0) (heldAt Config.t1 .headerWritten vS1)) (.refused .midFrame)
        (fun t => t.busy && t.refused) = true := by decide

/-- V-C4. -/
theorem test_clear_V_C4 :
    gives (exec (.clear 0 .tb0) (heldAt Config.t1 .closed vF1)) .ok
      (fun t => holds t.ctx0 .idle 0 none 0 [] && decide (t.xferLog = [])) = true := by decide

/-- V-C3. -/
theorem test_clear_V_C3 :
    gives (exec (.clear 0 .tb0) (heldAt Config.t1 .headerWritten vS1)) (.refused .midFrame)
      (fun t => holds t.ctx0 .headerWritten 16 (some 1) 0 vS1 && t.refused) = true := by decide

/-- V-H1. -/
theorem test_handoff_V_H1 :
    gives (exec (.handoff 0 .tb0) (heldAt Config.t1 .closed vF1)) .ok
      (fun t => decide (t.xferLog = [⟨.tb0, vF1⟩]) && decide (t.ctx0.stage = .consumed ∧ t.ctx0.cursor = 29)) =
      true := by decide

/-- V-H3. -/
theorem test_handoff_V_H3 :
    gives (exec (.handoff 0 .tb0) (held Config.t1)) (.err .sequenceError)
      (fun t => decide (t.ctx0.stage = .aborted) && !t.busy) = true := by decide

/-- P3 under `T1`: buffer 0 then buffer 1. -/
theorem test_send_P3 :
    gives (exec (.send 0 vP3 0 1) (State.resetWith narrow true)) .ok
      (fun t => decide (t.xferLog =
        [⟨.tb0, [0xF0, 0x01, 0x00, 0xA5, 0, 0, 0, 0, 0, 0, 0, 0, 0, 2, 0, 1, 0xF0, 0x02, 0x00, 0x02, 0x35, 0x64, 0, 0,
            0xF0, 0x03, 0, 0, 0xF0, 0x04, 0]⟩,
          ⟨.tb1, [0xF0, 0x01, 0x01, 0xA5, 0, 0, 0, 0, 0, 0, 0, 0, 0, 2, 0, 1, 0xF0, 0x02, 0x00, 0x02, 0x9A, 0x92, 0x21,
            0x81, 0xF0, 0x03, 0, 0, 0xF0, 0x04, 1]⟩]) && !t.busy) = true := by decide

/-- V-X2, but for the cursor and the bytes that R121 leaves open. -/
theorem test_send_V_X2 :
    gives (exec (.send 0 vP3 0 1) (State.resetWith { narrow with capacity1 := 20 } true)) (.err .bufferOverflow)
      (fun t => decide (t.ctx0.stage = .aborted ∧ t.ctx1.stage = .aborted ∧ errNumber t.ctx0.err = 0 ∧
        errNumber t.ctx1.err = 2 ∧ t.xferLog = [] ∧ t.errLog = [⟨.tb1, .bufferOverflow, .image⟩]) && !t.busy) =
      true := by decide

/-- P5, granted. -/
theorem test_send1_P5 :
    gives (exec (.send1 0 [1, 2, 3, 4] 0 0 0 1 1) State.reset) .ok
      (fun t => decide (t.xferLog = [⟨.tb0, [0xF0, 0x01, 0x00, 0xA5, 0, 0, 0, 0, 0, 0, 0, 0, 0, 1, 0, 1, 0xF0, 0x02,
        0x00, 0x01, 0, 0, 0xF0, 0x03, 0, 0, 0xF0, 0x04, 0]⟩]) && decide (t.ctx0.stage = .consumed)) = true := by decide

/-- P5, dropped (W2). -/
theorem test_send1_dropped :
    exec (.send1 0 [1, 2, 3, 4] 0 0 0 1 1) (State.resetWith Config.t1 false) =
      .next { State.resetWith Config.t1 false with reply := some ⟨0, .dropped⟩ } := rfl

/-- V-X1: a collateral abort keeps the other context's cursor, and its `ERR` stays 0. -/
theorem test_abort_V_X1 :
    gives (exec (.image 0 .tb1 [1, 2, 3])
        { heldAt Config.t1 .closed vF1 with ctx1 := ⟨.headerWritten, 16, some 1, none, Memory.ofBytes vS1⟩ })
      (.err .malformedBitmap)
      (fun t => holds t.ctx0 .aborted 29 (some 1) 0 vF1 && holds t.ctx1 .aborted 16 (some 1) 1 vS1 && !t.busy &&
        decide (t.errLog = [⟨.tb1, .malformedBitmap, .image⟩] ∧ t.xferLog = [])) = true := by decide

/-- A table word is presented next; as a record of the display device it stops by name (30_encoding.md R55). -/
theorem test_step_table_word :
    step (State.reset.withFetchWord 32 0xF0030000) = .refused .recordForDevice := rfl

/-- A pending line is read and its command executed. -/
theorem test_step_line :
    gives (step { State.reset with pending := [.present (.line "1: ACQUIRE".toList [])] }) .granted
      (fun t => decide (t.owner = some 1 ∧ t.pending = [])) = true := by decide

/-! ### Witnesses: what the hypotheses of the obligations admit -/

theorem test_witness_StepRunsDecodedInstruction :
    decode Config.t1 (.line "1: ACQUIRE".toList []) = .ok (.acquire 1) ∧ (Instr.acquire 1).wf Config.t1 = true ∧
      decode Config.t1 (.command (.acquire 2)) = .ok (.acquire 2) ∧ (Instr.acquire 2).wf Config.t1 = false ∧
      decode Config.t1 (.wire []) = .error .truncated ∧
      (State.reset.presentNext (.wire [])).pending = .present (.wire []) :: [] ∧ State.reset.pending = [] ∧
      ({ State.reset with pending := [.attach false] } : State).pending = .attach false :: [] := by decide

theorem test_witness_RecordDecodesAsEncoded :
    Config.t1.wf = true ∧ (Instr.startOfData 1 255 255 65535 0).wf Config.t1 = true ∧
      encodeRecord Config.t1 (.startOfData 1 2 3 480 360) = some vS1 ∧
      (Instr.transmitPixels 0 []).wf Config.t1 = true ∧
      encodeRecord Config.t1 (.transmitPixels 0 []) = some [0xF0, 0x02, 0, 0] ∧
      (Instr.endOfDataPad 1).wf Config.t2 = true ∧
      encodeRecord Config.t2 (.endOfDataPad 1) = some [0x04, 0xF0, 0x01, 0x00] := by decide

theorem test_witness_DecodedRecordEncodesBack :
    decode Config.t1 (.wire vS1) = .ok (.startOfData 1 2 3 480 360) ∧
      decode Config.t2 (.wire [0x02, 0xF0, 0x00, 0x00, 0x64, 0x35]) = .ok (.transmitPixels 0 [0x3564]) := by decide

theorem test_witness_CommandReadsAsPrinted :
    (Instr.image 1 .tb1 [1, 2, 3]).isCommand = true ∧
      encode Config.t1 (.image 1 .tb1 [1, 2, 3]) = some (.line "1: IMAGE 1, [1, 2, 3]".toList []) ∧
      encode Config.t1 (.send1 12 white 0 1 2 3 65535) =
        some (.line "12: SEND1 [(255, 255, 255, 255)], 0, 1, 2, 3, 65535".toList []) := by decide

theorem fF1_legal : fF1.legal Config.t1 := by unfold FrameArgs.legal; decide

theorem test_witness_FrameParsesBack :
    fF1.legal Config.t1 ∧ fF1.bytes Config.t1 = vF1 ∧
      parseFrame Config.t1 vF1 = some ⟨1, 2, 3, 480, 360, [0x3564]⟩ := by
  refine ⟨fF1_legal, ?_⟩
  decide

theorem test_witness_QuantReturnsPackedColor :
    (quantize 224 0 0 0).getLsbD 5 = true ∧ (quantize 0 3 0 0).getLsbD 6 = true ∧ (quantize 7 0 0 0).getLsbD 0 = true ∧
      (quantize 0 0 223 0).getLsbD 15 = true := by decide

/-- START: each clause, the capacity clauses at their boundary 16. -/
theorem test_witness_StartWritesItsRecord :
    (State.reset.ctx .tb0).tb.wf = true ∧ State.reset.holdsSession 0 = false ∧ (held Config.t1).holdsSession 0 = true ∧
      ((heldAt Config.t1 .headerWritten vS1).ctx .tb0).stage ≠ .idle ∧ ((held Config.t1).ctx .tb0).stage = .idle ∧
      ((held { Config.t1 with capacity0 := 15 }).cfg.capacity .tb0 <
        ((held { Config.t1 with capacity0 := 15 }).ctx .tb0).cursor + 16) ∧
      ((held { Config.t1 with capacity0 := 16 }).ctx .tb0).cursor + 16 ≤
        (held { Config.t1 with capacity0 := 16 }).cfg.capacity .tb0 := by decide

/-- IMAGE: each clause; 65535 and 65536 pixels at the run-length boundary, 22 bytes at the capacity boundary. -/
theorem test_witness_ImageWritesItsRecord :
    ((heldAt Config.t1 .headerWritten vS1).ctx .tb0).tb.wf = true ∧
      (heldAt Config.t1 .headerWritten vS1).holdsSession 0 = true ∧
      ((heldAt Config.t1 .headerWritten vS1).ctx .tb0).stage = .headerWritten ∧
      ((held Config.t1).ctx .tb0).stage ≠ .headerWritten ∧ [(1 : U8), 2, 3, 4, 5].length % 4 ≠ 0 ∧
      white.length % 4 = 0 ∧ 0xFFFF < 4 * 65536 / 4 / Config.t1.blockFactor ∧
      4 * 65535 / 4 / Config.t1.blockFactor ≤ 0xFFFF ∧
      (heldAt { Config.t1 with capacity0 := 21 } .headerWritten vS1).cfg.capacity .tb0 <
        ((heldAt { Config.t1 with capacity0 := 21 } .headerWritten vS1).ctx .tb0).cursor + 4 +
          2 * (white.length / 4) ∧
      ((heldAt { Config.t1 with capacity0 := 22 } .headerWritten vS1).ctx .tb0).cursor + 4 +
          2 * (white.length / 4) ≤ (heldAt { Config.t1 with capacity0 := 22 } .headerWritten vS1).cfg.capacity .tb0 := by
  decide

/-- The four bytes of pixel 0 of an input, with which IMAGE's color clause begins. -/
theorem test_witness_ImagePixel :
    [(10 : U8), 20, 30, 40][4 * 0]? = some 10 ∧ [(10 : U8), 20, 30, 40][4 * 0 + 1]? = some 20 ∧
      [(10 : U8), 20, 30, 40][4 * 0 + 2]? = some 30 ∧ [(10 : U8), 20, 30, 40][4 * 0 + 3]? = some 40 := by decide

/-- A pixel input of any length exists, among them the ones of the run-length clause. -/
theorem test_witness_ImageInput : ∃ p : List U8, p.length = 4 * 65536 :=
  ⟨List.replicate (4 * 65536) 0, List.length_replicate⟩

theorem test_witness_BlitWritesItsRecord :
    ((heldAt Config.t1 .pixelsWritten vI1).ctx .tb0).tb.wf = true ∧
      (heldAt Config.t1 .pixelsWritten vI1).holdsSession 0 = true ∧
      ((heldAt Config.t1 .pixelsWritten vI1).ctx .tb0).stage = .pixelsWritten ∧
      ((held Config.t1).ctx .tb0).stage ≠ .pixelsWritten ∧
      (heldAt { Config.t1 with capacity0 := 25 } .pixelsWritten vI1).cfg.capacity .tb0 <
        ((heldAt { Config.t1 with capacity0 := 25 } .pixelsWritten vI1).ctx .tb0).cursor + 4 ∧
      ((heldAt { Config.t1 with capacity0 := 26 } .pixelsWritten vI1).ctx .tb0).cursor + 4 ≤
        (heldAt { Config.t1 with capacity0 := 26 } .pixelsWritten vI1).cfg.capacity .tb0 := by decide

/-- END: each clause; the selector 2 is illegal, 0 is legal but not the one latched. -/
theorem test_witness_EndWritesItsRecord :
    ((heldAt Config.t1 .blitIssued vB1).ctx .tb0).tb.wf = true ∧
      (heldAt Config.t1 .blitIssued vB1).holdsSession 0 = true ∧
      ((heldAt Config.t1 .blitIssued vB1).ctx .tb0).stage = .blitIssued ∧
      ((held Config.t1).ctx .tb0).stage ≠ .blitIssued ∧ (((2 : U8) ≠ 0 ∧ (2 : U8) ≠ 1)) ∧
      ((heldAt Config.t1 .blitIssued vB1).ctx .tb0).disp ≠ some 0 ∧
      ((heldAt Config.t1 .blitIssued vB1).ctx .tb0).disp = some 1 ∧
      (heldAt { Config.t2 with capacity0 := 29 } .blitIssued vB1).cfg.capacity .tb0 <
        ((heldAt { Config.t2 with capacity0 := 29 } .blitIssued vB1).ctx .tb0).cursor + 3 + Config.t2.padLen ∧
      ((heldAt { Config.t2 with capacity0 := 30 } .blitIssued vB1).ctx .tb0).cursor + 3 + Config.t2.padLen ≤
        (heldAt { Config.t2 with capacity0 := 30 } .blitIssued vB1).cfg.capacity .tb0 := by decide

/-- The 29 bytes of V-F1 in a buffer of exactly 29. -/
theorem test_witness_FrameWritesWholeFrame :
    fF1.legal (held { Config.t1 with capacity0 := 29 }).cfg ∧
      (((held { Config.t1 with capacity0 := 29 }).ctx .tb0).tb.wf = true ∧
        (held { Config.t1 with capacity0 := 29 }).holdsSession 0 = true ∧
        ((held { Config.t1 with capacity0 := 29 }).ctx .tb0).stage = .idle ∧
        ((held { Config.t1 with capacity0 := 29 }).ctx .tb0).cursor +
            frameLength (held { Config.t1 with capacity0 := 29 }).cfg (pixelCount fF1.p) ≤
          (held { Config.t1 with capacity0 := 29 }).cfg.capacity .tb0) :=
  ⟨fF1_legal, by decide⟩

/-- FRAME that runs all four of its commands, and one that stops at its second. -/
theorem test_witness_FrameRunsItsFourCommands :
    0 < (held Config.t1).cfg.numReq ∧
      (∃ t, exec (.frame 0 .tb0 1 2 3 480 360 white) (held Config.t1) = .next t) ∧
      ∃ t, exec (.frame 0 .tb0 0 0 0 1 1 [1, 2, 3]) (held Config.t1) = .next t :=
  ⟨by decide, ⟨_, rfl⟩, ⟨_, rfl⟩⟩

theorem test_witness_AcquireTestsAndSets :
    (State.resetWith Config.t1 false).transportAttached = false ∧ (held Config.t1).transportAttached = true ∧
      (held Config.t1).busy = true ∧ State.reset.transportAttached = true ∧ State.reset.busy = false := by decide

theorem test_witness_ReleaseEndsSession :
    ¬((held Config.t1).busy = true ∧ (held Config.t1).owner = some 1) ∧
      (held Config.t1).busy = true ∧ (held Config.t1).owner = some 0 ∧
      ((held Config.t1).ctx .tb0).stage.midFrame = false ∧ ((held Config.t1).ctx .tb1).stage.midFrame = false ∧
      ((heldAt Config.t1 .blitIssued vB1).ctx .tb0).stage.midFrame = true := by decide

theorem test_witness_ClearEmptiesContext :
    State.reset.holdsSession 0 = false ∧ (heldAt Config.t1 .headerWritten vS1).holdsSession 0 = true ∧
      ((heldAt Config.t1 .headerWritten vS1).ctx .tb0).stage.midFrame = true ∧
      ((heldAt Config.t1 .closed vF1).ctx .tb0).stage.midFrame = false := by decide

/-- HANDOFF: each clause, the frame filling its buffer exactly. -/
theorem test_witness_HandoffSendsTheFrame :
    State.reset.holdsSession 0 = false ∧ (held Config.t1).holdsSession 0 = true ∧
      ((held Config.t1).ctx .tb0).stage ≠ .closed ∧
      (heldAt { Config.t1 with capacity0 := 29 } .closed vF1).holdsSession 0 = true ∧
      ((heldAt { Config.t1 with capacity0 := 29 } .closed vF1).ctx .tb0).stage = .closed ∧
      .tb0 ∉ (heldAt { Config.t1 with capacity0 := 29 } .closed vF1).handedOff ∧
      ((heldAt { Config.t1 with capacity0 := 29 } .closed vF1).ctx .tb0).cursor ≤
        (heldAt { Config.t1 with capacity0 := 29 } .closed vF1).cfg.capacity .tb0 ∧
      ((heldAt { Config.t1 with capacity0 := 29 } .closed vF1).ctx .tb0).tb.read 28 = some 1 := by decide

/-- SEND, with buffers that a half's 31 bytes fill exactly. -/
theorem test_witness_SendSendsBothHalves :
    let s := State.resetWith { narrow with capacity0 := 31, capacity1 := 31 } true
    vP3.length = virtualLength s.cfg ∧ s.transportAttached = true ∧ s.busy = false ∧ s.anyMidFrame = false ∧
      legalSelector 0 = true ∧ legalSelector 1 = true ∧ halfPixels s.cfg / s.cfg.blockFactor ≤ 0xFFFF ∧
      frameLength s.cfg (halfPixels s.cfg) ≤ s.cfg.capacity .tb0 ∧
      frameLength s.cfg (halfPixels s.cfg) ≤ s.cfg.capacity .tb1 := by decide

theorem test_witness_SendOneSendsOneFrame :
    let s := State.resetWith { Config.t1 with capacity0 := 29 } true
    fF1.legal s.cfg ∧ s.transportAttached = true ∧ s.busy = false ∧ s.anyMidFrame = false ∧
      frameLength s.cfg (pixelCount fF1.p) ≤ s.cfg.capacity0 :=
  ⟨fF1_legal, by decide⟩

/-- SEND and SEND1 that run all their commands, a SEND that is dropped, and SENDs that fail in either buffer. -/
theorem test_witness_SendRunsItsCommands :
    0 < narrow.numReq ∧ (State.resetWith narrow true).anyMidFrame = false ∧ vP3.length = virtualLength narrow ∧
      (∃ t, exec (.send 0 vP3 0 1) (State.resetWith narrow true) = .next t ∧ t.lastResult = some .ok) ∧
      (∃ t, exec (.send 0 vP3 0 1) (State.resetWith narrow false) = .next t ∧ t.lastResult = some .dropped) ∧
      (∃ t, exec (.send 0 vP3 2 1) (State.resetWith narrow true) = .next t ∧
        t.lastResult = some (.err .fieldRange) ∧ t.ctx1.stage = .idle) ∧
      (∃ t, exec (.send 0 vP3 0 2) (State.resetWith narrow true) = .next t ∧
        t.lastResult = some (.err .fieldRange) ∧ t.ctx1.stage = .aborted) ∧
      ∃ t, exec (.send1 0 white 1 2 3 480 360) State.reset = .next t ∧ t.lastResult = some .ok :=
  ⟨by decide, rfl, by decide, ⟨_, rfl, rfl⟩, ⟨_, rfl, rfl⟩, ⟨_, rfl, rfl, rfl⟩, ⟨_, rfl, rfl, rfl⟩, ⟨_, rfl, rfl⟩⟩

/-- A frame of 29 bytes in a buffer of 28, which no run reaches. -/
theorem test_witness_HandoffOutsideBufferStops :
    (heldAt { Config.t1 with capacity0 := 28 } .closed vF1).holdsSession 0 = true ∧
      ((heldAt { Config.t1 with capacity0 := 28 } .closed vF1).ctx .tb0).stage = .closed ∧
      .tb0 ∉ (heldAt { Config.t1 with capacity0 := 28 } .closed vF1).handedOff ∧
      (heldAt { Config.t1 with capacity0 := 28 } .closed vF1).cfg.capacity .tb0 <
        ((heldAt { Config.t1 with capacity0 := 28 } .closed vF1).ctx .tb0).cursor := by decide

theorem test_witness_SendIsDroppedOrRefused :
    white.length ≠ virtualLength narrow ∧ vP3.length = virtualLength narrow ∧
      (State.resetWith narrow false).transportAttached = false ∧ (held narrow).busy = true := by decide

theorem test_witness_SendNeverKeepsItsSession :
    ((State.resetWith narrow true).busy = false ∧ (State.resetWith narrow true).anyMidFrame = false) ∧
      (∃ t, exec (.send 0 vP3 0 1) (State.resetWith narrow true) = .next t) ∧
      (held narrow).busy = true ∧ ∃ t, exec (.send1 1 white 0 0 0 1 1) (held narrow) = .next t :=
  ⟨by decide, ⟨_, rfl⟩, rfl, ⟨_, rfl⟩⟩

theorem test_witness_FailedSendWritesNothing :
    ∃ t, exec (.send 0 vP3 0 2) (State.resetWith narrow true) = .next t ∧
      t.reply = some ⟨0, .err .fieldRange⟩ :=
  ⟨_, rfl, rfl⟩

theorem test_witness_HalvesAreTheColumns :
    vP3.length = virtualLength narrow ∧ leftHalf narrow vP3 = [255, 255, 255, 255, 0, 0, 0, 0] ∧
      rightHalf narrow vP3 = [128, 128, 128, 255, 10, 20, 30, 40] := by decide

/-- Each error of 60_exceptions.md R115, and each command that can raise one. -/
theorem test_witness_EveryErrorAborts :
    (∃ t, exec (.image 0 .tb0 [1, 2, 3, 4, 5]) (heldAt Config.t1 .headerWritten vS1) = .next t ∧
        t.reply = some ⟨0, .err .malformedBitmap⟩) ∧
      (∃ t, exec (.start 0 .tb0 0 0 0 1 1) (held { Config.t1 with capacity0 := 15 }) = .next t ∧
        t.reply = some ⟨0, .err .bufferOverflow⟩) ∧
      (∃ t, exec (.endCmd 0 .tb0 0) (heldAt Config.t1 .blitIssued vB1) = .next t ∧
        t.reply = some ⟨0, .err .fieldRange⟩) ∧
      (∃ t, exec (.blit 0 .tb0) (held Config.t1) = .next t ∧ t.reply = some ⟨0, .err .sequenceError⟩) ∧
      ∃ t, exec (.handoff 0 .tb0) (held Config.t1) = .next t ∧ t.reply = some ⟨0, .err .sequenceError⟩ :=
  ⟨⟨_, rfl, rfl⟩, ⟨_, rfl, rfl⟩, ⟨_, rfl, rfl⟩, ⟨_, rfl, rfl⟩, ⟨_, rfl, rfl⟩⟩

theorem test_witness_AbortIsRecoverable :
    (held Config.t1).transportAttached = true ∧
      (((held Config.t1).abort .tb0 .sequenceError .blit).ctx .tb0).stage = .aborted := by decide

theorem test_witness_ForeignCommandChangesNothing :
    (held Config.t1).busy = true ∧ (held Config.t1).owner = some 0 ∧
      (Instr.clear 1 .tb0).requester = some 1 ∧ (1 : Nat) ≠ 0 := by decide

/-- A START that leaves the other context alone, and an error that reaches it. -/
theorem test_witness_OtherContextIsIndependent :
    namedContext (.start 0 .tb1 1 0 0 1 1) = some .tb1 ∧
      (∃ t, exec (.start 0 .tb1 1 0 0 1 1) (heldAt Config.t1 .closed vF1) = .next t ∧ t.lastResult = some .ok) ∧
      ∃ t, exec (.start 0 .tb1 2 0 0 1 1) (heldAt Config.t1 .closed vF1) = .next t ∧
        t.lastResult = some (.err .fieldRange) ∧ t.ctx0.stage = .aborted :=
  ⟨rfl, ⟨_, rfl, rfl⟩, ⟨_, rfl, rfl, rfl⟩⟩

/-- A step forward, a CLEAR, and an abort of the other context. -/
theorem test_witness_StagesFollowTheTable :
    isPseudo (.blit 0 .tb0) = false ∧
      (∃ t, exec (.blit 0 .tb0) (heldAt Config.t1 .pixelsWritten vI1) = .next t ∧ t.ctx0.stage ≠ .pixelsWritten) ∧
      (∃ t, exec (.clear 0 .tb0) (heldAt Config.t1 .aborted vS1) = .next t ∧ t.ctx0.stage ≠ .aborted) ∧
      ∃ t, exec (.blit 0 .tb1) (heldAt Config.t1 .closed vF1) = .next t ∧ t.ctx0.stage ≠ .closed :=
  ⟨rfl, ⟨_, rfl, nofun⟩, ⟨_, rfl, nofun⟩, ⟨_, rfl, nofun⟩⟩

/-- A RELEASE and an error, each ending the session of requester 0. -/
theorem test_witness_SessionEndsOnlyByReleaseOrError :
    (held Config.t1).busy = true ∧ (held Config.t1).owner = some 0 ∧
      (∃ t, exec (.release 0) (held Config.t1) = .next t ∧ t.busy = false) ∧
      ∃ t, exec (.frame 0 .tb0 0 0 0 1 1 [1, 2, 3]) (held Config.t1) = .next t ∧ t.busy = false :=
  ⟨rfl, rfl, ⟨_, rfl, rfl⟩, ⟨_, rfl, rfl⟩⟩

theorem test_witness_ClosedFrameIsFinal :
    ((heldAt Config.t1 .closed vF1).ctx .tb0).stage = .closed ∧ isPseudo (.endCmd 0 .tb0 1) = false ∧
      (∀ q, Instr.endCmd 0 .tb0 1 ≠ .clear q .tb0) ∧ (∀ q, Instr.endCmd 0 .tb0 1 ≠ .handoff q .tb0) ∧
      ∃ t, exec (.endCmd 0 .tb0 1) (heldAt Config.t1 .closed vF1) = .next t :=
  ⟨rfl, rfl, fun _ => nofun, fun _ => nofun, ⟨_, rfl⟩⟩

/-- Two states that differ in the other context and in a log. -/
theorem test_witness_EncoderIsDeterministic :
    let s := heldAt Config.t1 .headerWritten vS1
    let s' : State := { s with ctx1 := ⟨.closed, vF1.length, some 1, none, Memory.ofBytes vF1⟩, refused := true }
    raiser (.image 0 .tb0 white) ≠ none ∧ namedContext (.image 0 .tb0 white) = some .tb0 ∧
      (∀ q', Instr.image 0 .tb0 white ≠ .handoff q' .tb0) ∧ (Instr.image 0 .tb0 white).requester = some 0 ∧
      s.cfg = s'.cfg ∧ s.ctx .tb0 = s'.ctx .tb0 ∧ s.holdsSession 0 = true ∧ s'.holdsSession 0 = true ∧
      (∃ t, exec (.image 0 .tb0 white) s = .next t) ∧ ∃ t, exec (.image 0 .tb0 white) s' = .next t :=
  ⟨nofun, rfl, fun _ => nofun, rfl, rfl, rfl, rfl, rfl, ⟨_, rfl⟩, ⟨_, rfl⟩⟩

/-- A state in the middle of a run: a frame sent, a frame `Closed` in buffer 0, one begun in buffer 1, and the
hand-off of buffer 0 pending. -/
def midRun : State :=
  { heldAt Config.t1 .closed vF1 with
    ctx1 := ⟨.headerWritten, 16, some 1, none, Memory.ofBytes vS1⟩
    xferLog := [⟨.tb0, vF1⟩]
    pending := [.present (.command (.handoff 0 .tb0))] }

theorem midRun_inBuffer (b : BufId) (a : Nat) (h : midRun.cfg.capacity b ≤ a) : (midRun.ctx b).tb.read a = none := by
  have h' : 64 ≤ a := by cases b <;> exact h
  cases b
  · show (Memory.ofBytes vF1).read a = none
    rw [Memory.read_ofBytes, List.getElem?_eq_none]
    exact Nat.le_trans (by decide) h'
  · show (Memory.ofBytes vS1).read a = none
    rw [Memory.read_ofBytes, List.getElem?_eq_none]
    exact Nat.le_trans (by decide) h'

theorem midRun_session : midRun.SessionSound :=
  ⟨by decide, fun q h => by cases h; decide, fun h => (by cases h), by decide, by decide⟩

theorem midRun_sound : midRun.Sound := by
  have hsel : ∀ d : U8, some (1 : U8) = some d → legalSelector d = true := fun d h => by cases h; decide
  refine ⟨by decide, midRun_session, fun b => ?_, fun x hx => ?_⟩
  · cases b
    · exact ⟨by decide, midRun_inBuffer .tb0, by decide, hsel, ⟨fF1, fF1_legal, ⟨by decide, by decide⟩, rfl, rfl⟩⟩
    · exact ⟨by decide, midRun_inBuffer .tb1, by decide, hsel, ⟨fF1, fF1_legal, ⟨by decide, by decide⟩, rfl, rfl⟩⟩
  · obtain rfl := List.mem_singleton.mp hx
    exact ⟨fF1, fF1_legal, by decide⟩

/-- Of EveryStepKeepsSound, EveryStepKeepsSessionConsistent, LogsOnlyGrow and FrameParsesBack. -/
theorem test_witness_EveryStepKeepsSound :
    midRun.Sound ∧ midRun.SessionSound ∧ (∃ t, step midRun = .next t ∧ t.xferLog.length = 2) ∧
      (⟨.tb0, vF1⟩ : Transfer) ∈ midRun.xferLog :=
  ⟨midRun_sound, midRun_session, ⟨_, rfl, rfl⟩, List.mem_singleton.mpr rfl⟩

theorem test_witness_EveryStepStaysInsideBuffers :
    (∀ b, (midRun.ctx b).tb.wf = true ∧ (midRun.ctx b).cursor ≤ midRun.cfg.capacity b ∧
      ∀ a, midRun.cfg.capacity b ≤ a → (midRun.ctx b).tb.read a = none) ∧ ∃ t, step midRun = .next t :=
  ⟨fun b => ⟨by cases b <;> decide, by cases b <;> decide, midRun_inBuffer b⟩, ⟨_, rfl⟩⟩

theorem test_witness_ParametersAreNeverWritten :
    ∃ t, exec (.release 1) { held Config.t1 with refused := true } = .next t ∧ t.refused = true :=
  ⟨_, rfl, rfl⟩

theorem heldAt_sound (stage : Stage) (bs : List U8) (hb : bs.length ≤ 64)
    (hc : (⟨stage, bs.length, some 1, none, Memory.ofBytes bs⟩ : Context).Carries Config.t1) :
    (heldAt Config.t1 stage bs).Sound := by
  refine ⟨rfl, ⟨⟨nofun, nofun⟩, fun q h => by cases h; exact (by decide : 0 < Config.t1.numReq), nofun,
      .nil, List.nil_suffix⟩, fun b => ?_,
    nofun⟩
  cases b
  · refine ⟨Memory.wf_ofBytes bs, fun a ha => ?_, hb, fun d h => by cases h; decide, hc⟩
    exact (Memory.read_ofBytes bs a).trans (List.getElem?_eq_none (Nat.le_trans hb ha))
  · exact ⟨rfl, fun _ _ => rfl, Nat.zero_le 64, nofun, ⟨rfl, rfl⟩, rfl, rfl⟩

/-- In these states no context is `Consumed`. -/
theorem heldAt_consumedSound (stage : Stage) (bs : List U8) (h : stage ≠ .consumed) :
    (heldAt Config.t1 stage bs).ConsumedSound := by
  intro b hb
  cases b
  · exact absurd hb h
  · cases hb

/-- The clauses of CursorFollowsStage up to `PixelsWritten`: context 1 is `Idle`. -/
theorem test_witness_CursorFollowsStage_begun :
    (heldAt Config.t1 .headerWritten vS1).Sound ∧ (heldAt Config.t1 .headerWritten vS1).ConsumedSound ∧
      ((heldAt Config.t1 .headerWritten vS1).ctx .tb1).stage = .idle ∧ vS1.length = 16 ∧
      (heldAt Config.t1 .pixelsWritten vI1).Sound ∧ (heldAt Config.t1 .pixelsWritten vI1).ConsumedSound ∧
      vI1.length = 20 + 2 * 1 :=
  ⟨heldAt_sound _ _ (by decide) ⟨fF1, fF1_legal, ⟨rfl, rfl⟩, rfl, rfl⟩, heldAt_consumedSound _ _ nofun, rfl, rfl,
    heldAt_sound _ _ (by decide) ⟨fF1, fF1_legal, ⟨by decide, rfl⟩, rfl, rfl⟩, heldAt_consumedSound _ _ nofun, rfl⟩

/-- The clauses of CursorFollowsStage for `BlitIssued` and `Closed`. -/
theorem test_witness_CursorFollowsStage_finished :
    (heldAt Config.t1 .blitIssued vB1).Sound ∧ (heldAt Config.t1 .blitIssued vB1).ConsumedSound ∧
      vB1.length = 24 + 2 * 1 ∧ (heldAt Config.t1 .closed vF1).Sound ∧
      (heldAt Config.t1 .closed vF1).ConsumedSound ∧ vF1.length = 27 + Config.t1.padLen + 2 * 1 :=
  ⟨heldAt_sound _ _ (by decide) ⟨fF1, fF1_legal, ⟨by decide, rfl⟩, rfl, rfl⟩, heldAt_consumedSound _ _ nofun, rfl,
    heldAt_sound _ _ (by decide) ⟨fF1, fF1_legal, ⟨by decide, rfl⟩, rfl, rfl⟩, heldAt_consumedSound _ _ nofun, rfl⟩

/-- Requester 0 handed off the frame V-F1 from buffer 0, and a QUANT is pending. -/
def sentRun : State :=
  { held Config.t1 with
    ctx0 := ⟨.consumed, 29, some 1, none, []⟩
    xferLog := [⟨.tb0, vF1⟩]
    handedOff := [.tb0]
    pending := [.present (.command (.quant 0 0 0 0 0))] }

theorem sentRun_sound : sentRun.Sound := by
  refine ⟨rfl, ⟨⟨nofun, nofun⟩, fun q h => by cases h; decide, nofun, by decide, by decide⟩, fun b => ?_, fun x hx => ?_⟩
  · cases b
    · exact ⟨rfl, fun _ _ => rfl, by decide, fun d h => by cases h; decide, rfl, ⟨1, rfl⟩, rfl⟩
    · exact ⟨rfl, fun _ _ => rfl, Nat.zero_le 64, nofun, ⟨rfl, rfl⟩, rfl, rfl⟩
  · obtain rfl := List.mem_singleton.mp hx
    exact ⟨fF1, fF1_legal, by decide⟩

theorem sentRun_consumedSound : sentRun.ConsumedSound := by
  intro b hb
  cases b
  · exact ⟨fF1, fF1_legal, by decide, by decide, rfl⟩
  · cases hb

/-- Of CursorFollowsStage in stage `Consumed`, and of EveryStepKeepsConsumedSound in a step that keeps that stage. -/
theorem test_witness_EveryStepKeepsConsumedSound :
    sentRun.Sound ∧ sentRun.ConsumedSound ∧ (sentRun.ctx .tb0).stage = .consumed ∧
      ∃ t, step sentRun = .next t ∧ t.ctx0.stage = .consumed :=
  ⟨sentRun_sound, sentRun_consumedSound, rfl, ⟨_, rfl, rfl⟩⟩

/-- A pixel at each end of an input of two pixels, and the first index past it. -/
theorem test_witness_ColorsArePixelsInOrder :
    0 < [(10 : U8), 20, 30, 40, 0, 0, 7, 0].length / 4 ∧ 1 < [(10 : U8), 20, 30, 40, 0, 0, 7, 0].length / 4 ∧
      [(10 : U8), 20, 30, 40, 0, 0, 7, 0].length / 4 ≤ 2 ∧
      pixelColors [10, 20, 30, 40, 0, 0, 7, 0] = [0x2181, 0x0800] := by decide

/-- The high byte of a field at the lower offset, and at the higher one (20_memory.md R44). -/
theorem test_bytes16 : bytes16 .be 0x3564 = [0x35, 0x64] ∧ bytes16 .le 0x3564 = [0x64, 0x35] := by decide

/-- SEND that fails in buffer 0, SEND that fails in buffer 1, SEND1 that fails. -/
theorem test_witness_FailedSendAbortsItsContexts :
    (State.resetWith narrow true).anyMidFrame = false ∧
      (∃ t, exec (.send 0 vP3 2 1) (State.resetWith narrow true) = .next t ∧
        t.reply = some ⟨0, .err .fieldRange⟩ ∧ t.errLog = [⟨.tb0, .fieldRange, .start⟩]) ∧
      (∃ t, exec (.send 0 vP3 0 2) (State.resetWith narrow true) = .next t ∧
        t.reply = some ⟨0, .err .fieldRange⟩ ∧ t.errLog = [⟨.tb1, .fieldRange, .start⟩]) ∧
      ∃ t, exec (.send1 0 [1] 0 0 0 1 1) (State.resetWith narrow true) = .next t ∧
        t.reply = some ⟨0, .err .malformedBitmap⟩ :=
  ⟨rfl, ⟨_, rfl, rfl, rfl⟩, ⟨_, rfl, rfl, rfl⟩, ⟨_, rfl, rfl⟩⟩

theorem test_witness_ResetIsSound : Config.t1.wf = true ∧ Config.t2.wf = true := by decide

theorem test_witness_FirstFrameNeedsNoClear :
    fF1.legal { Config.t1 with capacity1 := 29 } ∧
      frameLength { Config.t1 with capacity1 := 29 } (pixelCount fF1.p) ≤
        ({ Config.t1 with capacity1 := 29 } : Config).capacity .tb1 :=
  ⟨fF1_legal, by decide⟩

/-- 20_memory.md R50 at its boundary. -/
theorem test_witness_ReferenceCapacityThreshold :
    capRef Config.t1 24 = 67 ∧ frameLength Config.t1 24 = 75 ∧ capRef Config.t1 25 = 77 ∧
      frameLength Config.t1 25 = 77 ∧ Config.t1.endPad = false := by decide

/-- Requester 0 is about to hand off the frame V-F1 from buffer 0. -/
def aboutToSend : State :=
  { heldAt Config.t1 .closed vF1 with pending := [.present (.command (.handoff 0 .tb0))] }

/-- SessionWritesOncePerContext at its bound for buffer 0, and OnlyHandoffWritesToTransport. -/
theorem test_witness_SessionWritesOncePerContext :
    ∃ t, SessionStep aboutToSend t ∧ BufId.tb0 ∉ aboutToSend.handedOff ∧ aboutToSend.sentCount .tb0 = 0 ∧
      t.sentCount .tb0 = 1 ∧ t.xferLog.length = 1 ∧ exec (.handoff 0 .tb0) aboutToSend.taken = .next t ∧
      t.reply = some ⟨0, .ok⟩ :=
  ⟨_, ⟨rfl, rfl⟩, by decide, rfl, by decide, by decide, rfl, rfl⟩

/-- A second HANDOFF of a context in one session, of a new frame, makes no second write (42_session_control.md R106);
the first one in a session does, whatever the session before sent. -/
theorem test_handoff_once_per_session :
    gives (exec (.handoff 0 .tb0) { heldAt Config.t1 .closed vF1 with handedOff := [.tb0] }) (.err .sequenceError)
        (fun t => decide (t.xferLog = [] ∧ t.ctx0.stage = .aborted) && !t.busy) = true ∧
      gives (exec (.acquire 0) { State.reset with handedOff := [.tb0] }) .granted
        (fun t => decide (t.handedOff = [])) = true := by decide

/-- Of ErrorLeavesNothingToSend: a `Closed` context, and an error in the other one. -/
theorem test_witness_ErrorLeavesNothingToSend :
    ((heldAt Config.t1 .closed vF1).ctx .tb0).stage = .closed ∧
      ∃ t, exec (.blit 0 .tb1) (heldAt Config.t1 .closed vF1) = .next t ∧ t.reply = some ⟨0, .err .sequenceError⟩ :=
  ⟨rfl, ⟨_, rfl, rfl⟩⟩

end Sys2Proof.Tests
end

/-! ### The quantizer (40_quantizer.md) -/

section
namespace Sys2Proof.Machine

/-- QUANT only replies: with the quantized color, in every state (R76, R81). -/
theorem exec_quant (q : Nat) (r g bl a : U8) (s : State) :
    exec (.quant q r g bl a) s = .next { s with reply := some ⟨q, .okValue (quantize r g bl a)⟩ } :=
  rfl

/-- Each reduced channel shows from its own place up, and the fields combine by OR (R75, R80). -/
theorem testBit_quantWide (r g bl : U8) (i : Nat) :
    (quantWide r g bl).testBit i =
      ((r.toNat / 7).testBit i || (decide (6 ≤ i) && (g.toNat / 3).testBit (i - 6)) ||
        (decide (11 ≤ i) && (bl.toNat / 7).testBit (i - 11))) := by
  simp only [quantWide, Nat.testBit_or, Nat.testBit_shiftLeft, ge_iff_le]

/-- The cut to 16 bits keeps the 16 low bits of the wide value and no other (R76, R79). -/
theorem getLsbD_quantize (r g bl a : U8) (i : Nat) :
    (quantize r g bl a).getLsbD i = (decide (i < 16) && (quantWide r g bl).testBit i) :=
  BitVec.getLsbD_ofNat 16 (quantWide r g bl) i

/-- The alpha byte is read and discarded (R77). -/
theorem quantize_alpha (r g bl a a' : U8) : quantize r g bl a = quantize r g bl a' :=
  rfl

/-- Settles O11: below bit 16 the color has the bits of the wide value, which are those of the three fields. -/
theorem quantReturnsPackedColor : Obligations.QuantReturnsPackedColor := by
  intro q r g bl a s
  refine ⟨quantize r g bl a, exec_quant q r g bl a s, fun i hi => ?_⟩
  rw [getLsbD_quantize, decide_eq_true hi, Bool.true_and, testBit_quantWide]

/-- Settles O10: the one function is the quantizer at any fixed alpha, here 0. -/
theorem quantIsPure : Obligations.QuantIsPure := by
  refine ⟨fun r g bl => quantize r g bl 0, fun q r g bl a s => ⟨quantize_alpha r g bl a 0, ?_⟩⟩
  rw [exec_quant, quantize_alpha r g bl a 0]

end Sys2Proof.Machine
end

/-! ### The encoder commands (41_frame_encoder.md) -/

section
namespace Sys2Proof.Machine

open Sys2Proof.Claims

/-! #### The checks, in the words of the rules -/

theorem legalSelector_iff (d : U8) : legalSelector d = true ↔ d = 0 ∨ d = 1 := by
  simp [legalSelector]

theorem legalSelector_eq_false_iff (d : U8) : legalSelector d = false ↔ d ≠ 0 ∧ d ≠ 1 := by
  simp [legalSelector]

theorem State.fits_eq_false_iff (s : State) (b : BufId) (n : Nat) :
    s.fits b n = false ↔ s.cfg.capacity b < (s.ctx b).cursor + n := by
  simp [State.fits]

/-! #### What a refusal, an abort and a put answer -/

@[simp] theorem State.ctx_reply (s : State) (y : Option Reply) (b : BufId) :
    ({ s with reply := y } : State).ctx b = s.ctx b := by
  cases b <;> rfl

@[simp] theorem State.beforeAbort_ctx_err (s : State) (b : BufId) (e : ErrorKind) :
    ((s.beforeAbort b e).ctx b).err = (s.ctx b).err := by
  rw [State.beforeAbort_ctx]
  split <;> rfl

@[simp] theorem State.beforeAbort_ctx_disp (s : State) (b : BufId) (e : ErrorKind) :
    ((s.beforeAbort b e).ctx b).disp = (s.ctx b).disp := by
  rw [State.beforeAbort_ctx]
  split <;> rfl

/-- Outside its session a command is refused, whatever follows the session check (R83). -/
theorem refuses_of_withSession {i : Instr} {s : State} {q : Nat} {rest : Outcome}
    (hi : exec i s = withSession q s rest) (hq : s.holdsSession q = false) : Refuses i s q .notOwner := by
  rw [Refuses, hi, withSession_neg hq, refuse_eq]

/-- The abort procedure and the reply do, field by field, what 60_exceptions.md R121 says. -/
theorem abortedBy_abort (s : State) (b : BufId) (e : ErrorKind) (cmd : CommandName) (y : Option Reply) :
    AbortedBy b e cmd s { s.abort b e cmd with reply := y } where
  stage := by simp
  firstErrorKept := by rw [State.ctx_reply, State.abort_ctx, Context.abortSelf_err, State.beforeAbort_ctx_err]
  disp := by rw [State.ctx_reply, State.abort_ctx, Context.abortSelf_disp, State.beforeAbort_ctx_disp]
  precise := by intro he; simp [he]
  overflow := by
    rintro rfl
    have hrange := (s.ctx b).overflowed_cursor_range (s.cfg.capacity b) s.freeCount
    refine ⟨?_, fun hc => by simpa using (hrange hc).2, fun a ha => ?_, fun a ha => ?_⟩
    · simp [Context.overflowed_cursor]
    · simp [Memory.read_dropFrom, ha]
    · simp [Memory.read_dropFrom, Nat.not_lt.mpr ha]
  otherStage := by simp
  otherKept := by simp
  released := ⟨rfl, rfl⟩
  logged := by simp
  kept := by simp

theorem aborts_of_raise {i : Instr} {s : State} {q : Nat} {b : BufId} {e : ErrorKind} {cmd : CommandName}
    (hi : exec i s = raise q b e cmd s) : Aborts i s q b e cmd :=
  ⟨_, hi, rfl, abortedBy_abort s b e cmd _⟩

theorem sameOutside_setCtx (s : State) (b : BufId) (k : Context) (y : Option Reply) :
    SameOutside b s { s.setCtx b k with reply := y } := by
  constructor <;> simp

/-- A put appends its bytes, whatever becomes of the stage and the selector (20_memory.md R47). -/
theorem appended_putBytes {k : Context} (hwf : k.tb.wf = true) (bs : List U8) (st : Stage) (dp : Option U8) :
    Appended k { k.putBytes bs with stage := st, disp := dp } bs :=
  ⟨rfl, k.read_putBytes hwf bs, rfl⟩

/-- A command that ends in `OK` with bytes put into its context: its frame, the new stage and selector, the bytes. -/
theorem answers_of_putBytes {i : Instr} {s : State} {q : Nat} {b : BufId} {bs : List U8} {st : Stage}
    {dp : Option U8} (hwf : (s.ctx b).tb.wf = true)
    (hi : exec i s = finish q .ok (s.setCtx b { (s.ctx b).putBytes bs with stage := st, disp := dp })) :
    Answers i s q .ok fun t =>
      SameOutside b s t ∧ (t.ctx b).stage = st ∧ (t.ctx b).disp = dp ∧ Appended (s.ctx b) (t.ctx b) bs := by
  refine ⟨_, hi, rfl, sameOutside_setCtx s b _ _, ?_⟩
  rw [State.ctx_reply, State.setCtx_ctx]
  exact ⟨rfl, rfl, appended_putBytes hwf bs st dp⟩

theorem answers_mono {i : Instr} {s : State} {q : Nat} {r : Result} {P Q : State → Prop} (h : Answers i s q r P)
    (hPQ : ∀ t, P t → Q t) : Answers i s q r Q := by
  obtain ⟨t, ht, hr, hP⟩ := h
  exact ⟨t, ht, hr, hPQ t hP⟩

/-! #### Where each command fails a check -/

section
variable {q : Nat} {b : BufId} {s : State}

theorem execStart_sequenceError {d ox oy : U8} {w h : U16} (hq : s.holdsSession q = true)
    (hst : (s.ctx b).stage ≠ .idle) : execStart q b d ox oy w h s = raise q b .sequenceError .start s := by
  rw [execStart, withSession_pos hq, if_pos hst]

theorem execStart_fieldRange {d ox oy : U8} {w h : U16} (hq : s.holdsSession q = true)
    (hst : (s.ctx b).stage = .idle) (hd : legalSelector d = false) :
    execStart q b d ox oy w h s = raise q b .fieldRange .start s := by
  rw [execStart, withSession_pos hq, if_neg (not_not.mpr hst), if_pos (by simp [hd])]

theorem execStart_bufferOverflow {d ox oy : U8} {w h : U16} (hq : s.holdsSession q = true)
    (hst : (s.ctx b).stage = .idle) (hd : legalSelector d = true) (hf : s.fits b 16 = false) :
    execStart q b d ox oy w h s = raise q b .bufferOverflow .start s := by
  rw [execStart, withSession_pos hq, if_neg (not_not.mpr hst), if_neg (by simp [hd]), if_pos (by simp [hf])]

theorem execImage_sequenceError {p : List U8} (hq : s.holdsSession q = true)
    (hst : (s.ctx b).stage ≠ .headerWritten) : execImage q b p s = raise q b .sequenceError .image s := by
  rw [execImage, withSession_pos hq, if_pos hst]

theorem execImage_malformedBitmap {p : List U8} (hq : s.holdsSession q = true)
    (hst : (s.ctx b).stage = .headerWritten) (hl : p.length % 4 ≠ 0) :
    execImage q b p s = raise q b .malformedBitmap .image s := by
  rw [execImage, withSession_pos hq, if_neg (not_not.mpr hst), if_pos hl]

theorem execImage_fieldRange {p : List U8} (hq : s.holdsSession q = true)
    (hst : (s.ctx b).stage = .headerWritten) (hl : p.length % 4 = 0) (hr : 0xFFFF < runLength s.cfg p) :
    execImage q b p s = raise q b .fieldRange .image s := by
  rw [execImage, withSession_pos hq, if_neg (not_not.mpr hst), if_neg (not_not.mpr hl), if_pos hr]

theorem execImage_bufferOverflow {p : List U8} (hq : s.holdsSession q = true)
    (hst : (s.ctx b).stage = .headerWritten) (hl : p.length % 4 = 0) (hr : runLength s.cfg p ≤ 0xFFFF)
    (hf : s.fits b (4 + 2 * pixelCount p) = false) :
    execImage q b p s = raise q b .bufferOverflow .image s := by
  rw [execImage, withSession_pos hq, if_neg (not_not.mpr hst), if_neg (not_not.mpr hl), if_neg (Nat.not_lt.mpr hr),
    if_pos (by simp [hf])]

theorem execBlit_sequenceError (hq : s.holdsSession q = true) (hst : (s.ctx b).stage ≠ .pixelsWritten) :
    execBlit q b s = raise q b .sequenceError .blit s := by
  rw [execBlit, withSession_pos hq, if_pos hst]

theorem execBlit_bufferOverflow (hq : s.holdsSession q = true) (hst : (s.ctx b).stage = .pixelsWritten)
    (hf : s.fits b 4 = false) : execBlit q b s = raise q b .bufferOverflow .blit s := by
  rw [execBlit, withSession_pos hq, if_neg (not_not.mpr hst), if_pos (by simp [hf])]

theorem execEnd_sequenceError {d : U8} (hq : s.holdsSession q = true) (hst : (s.ctx b).stage ≠ .blitIssued) :
    execEnd q b d s = raise q b .sequenceError .endCmd s := by
  rw [execEnd, withSession_pos hq, if_pos hst]

theorem execEnd_fieldRange {d : U8} (hq : s.holdsSession q = true) (hst : (s.ctx b).stage = .blitIssued)
    (hd : legalSelector d = false ∨ (s.ctx b).disp ≠ some d) :
    execEnd q b d s = raise q b .fieldRange .endCmd s := by
  rw [execEnd, withSession_pos hq, if_neg (not_not.mpr hst), if_pos (by simpa using hd)]

theorem execEnd_bufferOverflow {d : U8} (hq : s.holdsSession q = true) (hst : (s.ctx b).stage = .blitIssued)
    (hd : legalSelector d = true) (hm : (s.ctx b).disp = some d) (hf : s.fits b (3 + s.cfg.padLen) = false) :
    execEnd q b d s = raise q b .bufferOverflow .endCmd s := by
  rw [execEnd, withSession_pos hq, if_neg (not_not.mpr hst), if_neg (by simp [hd, hm]), if_pos (by simp [hf])]

end

/-! #### The instructions' meanings -/

theorem exec_start (q : Nat) (b : BufId) (d ox oy : U8) (w h : U16) (s : State) :
    exec (.start q b d ox oy w h) s = execStart q b d ox oy w h s :=
  rfl

theorem exec_image (q : Nat) (b : BufId) (p : List U8) (s : State) :
    exec (.image q b p) s = execImage q b p s :=
  rfl

theorem exec_blit (q : Nat) (b : BufId) (s : State) : exec (.blit q b) s = execBlit q b s :=
  rfl

theorem exec_endCmd (q : Nat) (b : BufId) (d : U8) (s : State) : exec (.endCmd q b d) s = execEnd q b d s :=
  rfl

/-! #### Reading the IMAGE record back (30_encoding.md R57, 20_memory.md R35) -/

theorem inRead_of_getElem? {p : List U8} {i : Nat} {v : U8} (h : p[i]? = some v) : inRead p i = v := by
  simp [inRead, h]

/-- The color of a whole pixel is that of its four input bytes (20_memory.md R35). -/
theorem pixelColors_getElem? {p : List U8} {k : Nat} {r g bl al : U8} (hr : p[4 * k]? = some r)
    (hg : p[4 * k + 1]? = some g) (hb : p[4 * k + 2]? = some bl) (ha : p[4 * k + 3]? = some al) :
    (pixelColors p)[k]? = some (quantize r g bl al) := by
  have hlast : 4 * k + 3 < p.length := (List.getElem?_eq_some_iff.mp ha).1
  have hk : k < pixelCount p := by unfold pixelCount; omega
  simp [pixelColors, pixelColor, List.getElem?_range hk, inRead_of_getElem? hr, inRead_of_getElem? hg,
    inRead_of_getElem? hb, inRead_of_getElem? ha]

/-- Byte `j` of field `k` in a run of 16-bit fields. -/
theorem flatMap_bytes16_getElem? (o : WireOrder) (vs : List U16) (k j : Nat) (hj : j < 2) :
    (vs.flatMap (bytes16 o))[2 * k + j]? = vs[k]?.bind fun v => (bytes16 o v)[j]? := by
  induction vs generalizing k with
  | nil => rfl
  | cons v vs ih =>
    rw [List.flatMap_cons]
    cases k with
    | zero => rw [List.getElem?_append_left (by simp; omega)]; simp
    | succ k =>
      rw [List.getElem?_append_right (by simp; omega), bytes16_length,
        show 2 * (k + 1) + j - 2 = 2 * k + j by omega, ih, List.getElem?_cons_succ]

/-- Byte `j` of color `k` in an IMAGE record, which has the colors from offset 4 on (30_encoding.md R57). -/
theorem pixelRecord_getElem?_color (c : Config) (rl : U16) (colors : List U16) (k j : Nat) (hj : j < 2) :
    (pixelRecord c rl colors)[4 + 2 * k + j]? = colors[k]?.bind fun v => (bytes16 c.wireOrder v)[j]? := by
  rw [pixelRecord, List.getElem?_append_right (by simp; omega), ← flatMap_bytes16_getElem? _ _ _ _ hj]
  simp only [List.length_append, bytes16_length]
  congr 1
  omega

theorem pixelRecord_getElem?_opcode (c : Config) (rl : U16) (colors : List U16) (j : Nat) (hj : j < 2) :
    (pixelRecord c rl colors)[j]? = (bytes16 c.wireOrder c.opPixel)[j]? := by
  rw [pixelRecord, List.append_assoc, List.getElem?_append_left (by simpa using hj)]

theorem pixelRecord_getElem?_runLength (c : Config) (rl : U16) (colors : List U16) (j : Nat) (hj : j < 2) :
    (pixelRecord c rl colors)[2 + j]? = (bytes16 c.wireOrder rl)[j]? := by
  rw [pixelRecord, List.getElem?_append_left (by simp; omega), List.getElem?_append_right (by simp), bytes16_length,
    Nat.add_sub_cancel_left]

/-- The bytes that a context gained stand from its old cursor on. -/
theorem read_of_appended {k k' : Context} {bs : List U8} (h : Appended k k' bs) {i : Nat} (hi : i < bs.length) :
    k'.tb.read (k.cursor + i) = bs[i]? := by
  rw [h.bytes, if_pos (by omega), Nat.add_sub_cancel_left]

/-- An appended IMAGE record stands field by field at the old cursor. -/
theorem imageAt_of_appended {c : Config} {p : List U8} {k k' : Context} (h : Appended k k' (imageRecord c p)) :
    ImageAt c p k'.tb k.cursor where
  opcode j hj := by
    rw [read_of_appended h (by simp; omega)]
    exact pixelRecord_getElem?_opcode c _ _ j hj
  runLength j hj := by
    rw [Nat.add_assoc, read_of_appended h (by simp; omega)]
    exact pixelRecord_getElem?_runLength c _ _ j hj
  color n r g bl al hr hg hb ha j hj := by
    have hcolor := pixelColors_getElem? hr hg hb ha
    have hn : n < pixelCount p := by simpa using (List.getElem?_eq_some_iff.mp hcolor).1
    rw [show k.cursor + 4 + 2 * n + j = k.cursor + (4 + 2 * n + j) by omega, read_of_appended h (by simp; omega),
      imageRecord, pixelRecord_getElem?_color c _ _ n j hj, hcolor, Option.bind_some]

/-! #### The commands settled -/

/-- Settles O13, one check of START after the other (R84, R85). -/
theorem startWritesItsRecord : Obligations.StartWritesItsRecord := by
  intro s q b d ox oy w h hwf i
  have hi : exec i s = execStart q b d ox oy w h s := exec_start q b d ox oy w h s
  refine ⟨refuses_of_withSession hi, fun hq => ⟨fun hst => ?_, fun hst => ⟨fun hd => ?_, fun hd => ?_⟩⟩⟩
  · exact aborts_of_raise (hi.trans (execStart_sequenceError hq hst))
  · exact aborts_of_raise (hi.trans (execStart_fieldRange hq hst ((legalSelector_eq_false_iff d).mpr hd)))
  · have hd := (legalSelector_iff d).mpr hd
    refine ⟨fun hf => ?_, fun hf => ?_⟩
    · exact aborts_of_raise (hi.trans (execStart_bufferOverflow hq hst hd ((s.fits_eq_false_iff b 16).mpr hf)))
    · rw [execStart_ok hq hst hd ((s.fits_iff b 16).mpr hf), Context.writeStart_eq] at hi
      exact answers_of_putBytes hwf hi

/-- Settles O14, one check of IMAGE after the other; the fields of the record are read back from the bytes appended
(R87). -/
theorem imageWritesItsRecord : Obligations.ImageWritesItsRecord := by
  intro s q b p hwf i n
  have hi : exec i s = execImage q b p s := exec_image q b p s
  have hn : (s.ctx b).cursor + (4 + 2 * pixelCount p) = (s.ctx b).cursor + 4 + 2 * n := (Nat.add_assoc ..).symm
  refine ⟨refuses_of_withSession hi, fun hq => ⟨fun hst => ?_, fun hst => ⟨fun hl => ?_, fun hl =>
    ⟨fun hr => ?_, fun hr => ⟨fun hf => ?_, fun hf => ?_⟩⟩⟩⟩⟩
  · exact aborts_of_raise (hi.trans (execImage_sequenceError hq hst))
  · exact aborts_of_raise (hi.trans (execImage_malformedBitmap hq hst hl))
  · exact aborts_of_raise (hi.trans (execImage_fieldRange hq hst hl hr))
  · rw [← hn] at hf
    exact aborts_of_raise (hi.trans (execImage_bufferOverflow hq hst hl hr ((s.fits_eq_false_iff b _).mpr hf)))
  · rw [← hn] at hf
    rw [execImage_ok hq hst hl hr ((s.fits_iff b _).mpr hf), Context.writeImage_eq] at hi
    refine answers_mono (answers_of_putBytes hwf hi) fun t ht => ?_
    obtain ⟨hout, hstage, hdisp, hrec⟩ := ht
    exact ⟨hout, hstage, hdisp, hrec, imageAt_of_appended hrec⟩

/-- Settles O15, one check of BLIT after the other (R90). -/
theorem blitWritesItsRecord : Obligations.BlitWritesItsRecord := by
  intro s q b hwf i
  have hi : exec i s = execBlit q b s := exec_blit q b s
  refine ⟨refuses_of_withSession hi, fun hq => ⟨fun hst => ?_, fun hst => ⟨fun hf => ?_, fun hf => ?_⟩⟩⟩
  · exact aborts_of_raise (hi.trans (execBlit_sequenceError hq hst))
  · exact aborts_of_raise (hi.trans (execBlit_bufferOverflow hq hst ((s.fits_eq_false_iff b 4).mpr hf)))
  · rw [execBlit_ok hq hst ((s.fits_iff b 4).mpr hf), Context.writeBlit_eq] at hi
    exact answers_of_putBytes hwf hi

/-- Settles O16, one check of END after the other (R93, R94). -/
theorem endWritesItsRecord : Obligations.EndWritesItsRecord := by
  intro s q b d hwf i
  have hi : exec i s = execEnd q b d s := exec_endCmd q b d s
  refine ⟨refuses_of_withSession hi, fun hq => ⟨fun hst => ?_, fun hst => ⟨fun hd => ?_, ?_⟩⟩⟩
  · exact aborts_of_raise (hi.trans (execEnd_sequenceError hq hst))
  · exact aborts_of_raise (hi.trans (execEnd_fieldRange hq hst (hd.imp_left (legalSelector_eq_false_iff d).mpr)))
  · rintro ⟨hd, hm⟩
    have hd := (legalSelector_iff d).mpr hd
    refine ⟨fun hf => ?_, fun hf => ?_⟩
    · rw [Nat.add_assoc] at hf
      exact aborts_of_raise (hi.trans (execEnd_bufferOverflow hq hst hd hm ((s.fits_eq_false_iff b _).mpr hf)))
    · rw [Nat.add_assoc] at hf
      rw [execEnd_ok hq hst hd hm ((s.fits_iff b _).mpr hf), Context.writeEnd_eq] at hi
      exact answers_of_putBytes hwf hi

end Sys2Proof.Machine
end

/-! ### Session control (42_session_control.md) -/

section
namespace Sys2Proof.Machine

open Sys2Proof.Claims

/-! #### The instructions' meanings -/

theorem exec_acquire (q : Nat) (s : State) : exec (.acquire q) s = execAcquire q s :=
  rfl

theorem exec_release (q : Nat) (s : State) : exec (.release q) s = execRelease q s :=
  rfl

theorem exec_clear (q : Nat) (b : BufId) (s : State) : exec (.clear q b) s = execClear q b s :=
  rfl

/-! #### The halves of a virtual bitmap, row by row (R108) -/

/-- Row `y` of the half that begins at column `x0`. -/
def halfRow (c : Config) (x0 : Nat) (v : List U8) (y : Nat) : List U8 :=
  (v.drop (4 * (y * (2 * c.halfW.toNat) + x0))).take (4 * c.halfW.toNat)

theorem halfFrom_eq_flatMap_halfRow (c : Config) (x0 : Nat) (v : List U8) :
    halfFrom c x0 v = (List.range c.height.toNat).flatMap (halfRow c x0 v) :=
  rfl

/-- A row that lies inside the bitmap is whole. -/
theorem halfRow_length {c : Config} {x0 y : Nat} {v : List U8} (hv : v.length = virtualLength c)
    (hx0 : x0 ≤ c.halfW.toNat) (hy : y < c.height.toNat) : (halfRow c x0 v y).length = 4 * c.halfW.toNat := by
  have hrows : 2 * c.halfW.toNat * (y + 1) ≤ 2 * c.halfW.toNat * c.height.toNat := Nat.mul_le_mul_left _ hy
  rw [Nat.mul_succ] at hrows
  simp only [halfRow, List.length_take, List.length_drop, hv, virtualLength, Nat.mul_comm y]
  omega

/-- Byte `i` of a row is byte `i` of the bitmap from the row's first pixel on. -/
theorem halfRow_getElem? (c : Config) (x0 y : Nat) (v : List U8) {i : Nat} (hi : i < 4 * c.halfW.toNat) :
    (halfRow c x0 v y)[i]? = v[4 * (y * (2 * c.halfW.toNat) + x0) + i]? := by
  rw [halfRow, List.getElem?_take_of_lt hi, List.getElem?_drop]

/-- `h` rows of `n` bytes make `n * h` bytes. -/
theorem length_flatMap_range {f : Nat → List U8} {n h : Nat} (hf : ∀ y < h, (f y).length = n) :
    ((List.range h).flatMap f).length = n * h := by
  induction h with
  | zero => rfl
  | succ h ih =>
    rw [List.range_succ, List.flatMap_append, List.length_append, ih fun y hy => hf y (by omega),
      List.flatMap_singleton, hf h (by omega), Nat.mul_succ]

/-- Where all rows have `n` bytes, row `y` begins at byte `n * y`. -/
theorem getElem?_flatMap_range {f : Nat → List U8} {n h y i : Nat} (hf : ∀ y < h, (f y).length = n) (hy : y < h)
    (hi : i < n) : ((List.range h).flatMap f)[n * y + i]? = (f y)[i]? := by
  induction h with
  | zero => omega
  | succ h ih =>
    have hrows : ∀ z < h, (f z).length = n := fun z hz => hf z (by omega)
    have hlen := length_flatMap_range hrows
    rw [List.range_succ, List.flatMap_append, List.flatMap_singleton]
    rcases Nat.lt_succ_iff_lt_or_eq.mp hy with hlt | rfl
    · have hbound : n * (y + 1) ≤ n * h := Nat.mul_le_mul_left n hlt
      rw [Nat.mul_succ] at hbound
      rw [List.getElem?_append_left (by omega), ih hrows hlt]
    · rw [List.getElem?_append_right (by omega), hlen, Nat.add_sub_cancel_left]

theorem halfFrom_length {c : Config} {x0 : Nat} {v : List U8} (hv : v.length = virtualLength c)
    (hx0 : x0 ≤ c.halfW.toNat) : (halfFrom c x0 v).length = halfPixels c * 4 := by
  rw [halfFrom_eq_flatMap_halfRow, length_flatMap_range fun y hy => halfRow_length hv hx0 hy, halfPixels,
    Nat.mul_assoc, Nat.mul_comm]

/-- Pixel `(x, y)` of the half that begins at column `x0` is pixel `(x0 + x, y)` of the bitmap. -/
theorem halfFrom_getElem? {c : Config} {x0 : Nat} {v : List U8} (hv : v.length = virtualLength c)
    (hx0 : x0 ≤ c.halfW.toNat) {x y j : Nat} (hx : x < c.halfW.toNat) (hy : y < c.height.toNat) (hj : j < 4) :
    (halfFrom c x0 v)[4 * (y * c.halfW.toNat + x) + j]? =
      v[4 * (y * (2 * c.halfW.toNat) + (x0 + x)) + j]? := by
  have hi : 4 * x + j < 4 * c.halfW.toNat := by omega
  have hoff : 4 * (y * c.halfW.toNat + x) + j = 4 * c.halfW.toNat * y + (4 * x + j) := by ring
  rw [halfFrom_eq_flatMap_halfRow, hoff, getElem?_flatMap_range (fun z hz => halfRow_length hv hx0 hz) hy hi,
    halfRow_getElem? c x0 y v hi]
  congr 1
  omega

/-- Settles O30: the left half begins at column 0, the right half at column `HALF_W`. -/
theorem halvesAreTheColumns : Obligations.HalvesAreTheColumns := by
  intro c v hv
  refine ⟨halfFrom_length hv (Nat.zero_le _), halfFrom_length hv le_rfl, fun x y j hx hy hj => ⟨?_, ?_⟩⟩
  · rw [leftHalf, halfFrom_getElem? hv (Nat.zero_le _) hx hy hj, Nat.zero_add]
  · exact halfFrom_getElem? hv le_rfl hx hy hj

/-! #### Where a command of session control is dropped or refused -/

theorem execAcquire_unattached {q : Nat} {s : State} (ht : s.transportAttached = false) :
    execAcquire q s = finish q .dropped s := by
  rw [execAcquire, if_pos (by simp [ht])]

theorem execAcquire_busy {q : Nat} {s : State} (ht : s.transportAttached = true) (hb : s.busy = true) :
    execAcquire q s = finish q .dropped s := by
  rw [execAcquire, if_neg (by simp [ht]), if_pos hb]

theorem execAcquire_free {q : Nat} {s : State} (ht : s.transportAttached = true) (hb : s.busy = false) :
    execAcquire q s = finish q .granted { s with busy := true, owner := some q, handedOff := [] } := by
  rw [execAcquire, if_neg (by simp [ht]), if_neg (by simp [hb])]

theorem execRelease_midFrame {q : Nat} {s : State} (hq : s.holdsSession q = true) (hm : s.anyMidFrame = true) :
    execRelease q s = refuse q .midFrame s := by
  rw [execRelease, withSession_pos hq, if_pos hm]

theorem execClear_midFrame {q : Nat} {b : BufId} {s : State} (hq : s.holdsSession q = true)
    (hm : (s.ctx b).stage.midFrame = true) : execClear q b s = refuse q .midFrame s := by
  rw [execClear, withSession_pos hq, if_pos hm]

theorem State.anyMidFrame_iff (s : State) : s.anyMidFrame = true ↔ ∃ b, (s.ctx b).stage.midFrame = true := by
  rw [State.anyMidFrame, Bool.or_eq_true]
  constructor
  · rintro (h0 | h1)
    · exact ⟨.tb0, h0⟩
    · exact ⟨.tb1, h1⟩
  · rintro ⟨b, hb⟩
    cases b with
    | tb0 => exact .inl hb
    | tb1 => exact .inr hb

theorem State.anyMidFrame_eq_false_iff (s : State) :
    s.anyMidFrame = false ↔ ∀ b, (s.ctx b).stage.midFrame = false := by
  simpa using s.anyMidFrame_iff.not

/-! #### The commands settled -/

/-- Settles O19, one check of ACQUIRE after the other (R100). -/
theorem acquireTestsAndSets : Obligations.AcquireTestsAndSets := by
  intro s q
  rw [exec_acquire]
  exact ⟨execAcquire_unattached, execAcquire_busy, execAcquire_free⟩

/-- Settles O20, one check of RELEASE after the other (R102). -/
theorem releaseEndsSession : Obligations.ReleaseEndsSession := by
  intro s q
  have hi : exec (.release q) s = execRelease q s := exec_release q s
  refine ⟨fun hq => ?_, fun hb ho hm => ?_, fun hb ho hm => ?_⟩
  · rw [← State.holdsSession_iff, Bool.not_eq_true] at hq
    exact refuses_of_withSession hi hq
  · have hq := (s.holdsSession_iff q).mpr ⟨hb, ho⟩
    exact hi.trans (execRelease_midFrame hq (s.anyMidFrame_iff.mpr hm))
  · have hq := (s.holdsSession_iff q).mpr ⟨hb, ho⟩
    exact hi.trans (execRelease_ok hq (s.anyMidFrame_eq_false_iff.mpr hm))

/-- Settles O21, one check of CLEAR after the other; a cleared context is as after reset (R103). -/
theorem clearEmptiesContext : Obligations.ClearEmptiesContext := by
  intro s q b
  have hi : exec (.clear q b) s = execClear q b s := exec_clear q b s
  refine ⟨refuses_of_withSession hi, fun hq hm => hi.trans (execClear_midFrame hq hm), fun hq hm => ?_⟩
  refine ⟨_, hi.trans (execClear_ok hq hm), rfl, sameOutside_setCtx s b _ _, ?_⟩
  rw [State.ctx_reply, State.setCtx_ctx]
  exact ⟨rfl, rfl, rfl, rfl, Memory.read_nil⟩

end Sys2Proof.Machine
end

/-! ### Errors (60_exceptions.md) -/

section
namespace Sys2Proof.Machine

open Sys2Proof.Claims

/-- The outcome `o` of a command of `q` in state `s` answers an error only with the session held and the abort of
context `b` under the name `cmd` (R121). -/
def ErrorsAbort (q : Nat) (b : BufId) (cmd : CommandName) (s : State) (o : Outcome) : Prop :=
  ∀ (t : State) (e : ErrorKind), o = .next t → t.reply = some ⟨q, .err e⟩ →
    AbortedBy b e cmd s t ∧ s.holdsSession q = true

/-! #### The ways a command ends, and its checks -/

section
variable {q : Nat} {b : BufId} {cmd : CommandName} {s : State}

theorem errorsAbort_raise {e : ErrorKind} (hq : s.holdsSession q = true) :
    ErrorsAbort q b cmd s (raise q b e cmd s) := by
  intro t e' ht hr
  cases ht
  cases hr
  exact ⟨abortedBy_abort s b e cmd _, hq⟩

/-- A command that ends with another result answers no error, whatever state it leaves (R69). -/
theorem errorsAbort_finish {r : Result} {u : State} (hr : ∀ e, r ≠ .err e) : ErrorsAbort q b cmd s (finish q r u) := by
  intro t e ht hreply
  cases ht
  exact absurd (congrArg Reply.result (Option.some.inj hreply)) (hr e)

theorem errorsAbort_fault (r : Fault) : ErrorsAbort q b cmd s (.fault r) := by
  intro t e ht
  cases ht

theorem errorsAbort_ite {c : Prop} [Decidable c] {o o' : Outcome} (ho : ErrorsAbort q b cmd s o)
    (ho' : ErrorsAbort q b cmd s o') : ErrorsAbort q b cmd s (if c then o else o') := by
  split
  · exact ho
  · exact ho'

/-- Outside the session a command is refused, which is no error (R123); so the checks after it run in the session. -/
theorem errorsAbort_withSession {rest : Outcome} (hrest : s.holdsSession q = true → ErrorsAbort q b cmd s rest) :
    ErrorsAbort q b cmd s (withSession q s rest) := by
  cases hq : s.holdsSession q with
  | false => rw [withSession_neg hq]; exact errorsAbort_finish nofun
  | true => rw [withSession_pos hq]; exact hrest hq

end

/-! #### The commands that can raise an error, check by check -/

theorem exec_handoff (q : Nat) (b : BufId) (s : State) : exec (.handoff q b) s = execHandoff q b s :=
  rfl

theorem execStart_errorsAbort (q : Nat) (b : BufId) (d ox oy : U8) (w h : U16) (s : State) :
    ErrorsAbort q b .start s (execStart q b d ox oy w h s) :=
  errorsAbort_withSession fun hq =>
    errorsAbort_ite (errorsAbort_raise hq) <|
      errorsAbort_ite (errorsAbort_raise hq) <|
        errorsAbort_ite (errorsAbort_raise hq) (errorsAbort_finish nofun)

theorem execImage_errorsAbort (q : Nat) (b : BufId) (p : List U8) (s : State) :
    ErrorsAbort q b .image s (execImage q b p s) :=
  errorsAbort_withSession fun hq =>
    errorsAbort_ite (errorsAbort_raise hq) <|
      errorsAbort_ite (errorsAbort_raise hq) <|
        errorsAbort_ite (errorsAbort_raise hq) <|
          errorsAbort_ite (errorsAbort_raise hq) (errorsAbort_finish nofun)

theorem execBlit_errorsAbort (q : Nat) (b : BufId) (s : State) : ErrorsAbort q b .blit s (execBlit q b s) :=
  errorsAbort_withSession fun hq =>
    errorsAbort_ite (errorsAbort_raise hq) <|
      errorsAbort_ite (errorsAbort_raise hq) (errorsAbort_finish nofun)

theorem execEnd_errorsAbort (q : Nat) (b : BufId) (d : U8) (s : State) :
    ErrorsAbort q b .endCmd s (execEnd q b d s) :=
  errorsAbort_withSession fun hq =>
    errorsAbort_ite (errorsAbort_raise hq) <|
      errorsAbort_ite (errorsAbort_raise hq) <|
        errorsAbort_ite (errorsAbort_raise hq) (errorsAbort_finish nofun)

/-- A HANDOFF whose cursor is outside the buffer stops with a fault, which is no next state (R105, log 15). -/
theorem execHandoff_errorsAbort (q : Nat) (b : BufId) (s : State) :
    ErrorsAbort q b .handoff s (execHandoff q b s) :=
  errorsAbort_withSession fun hq =>
    errorsAbort_ite (errorsAbort_raise hq) <|
      errorsAbort_ite (errorsAbort_fault _) (errorsAbort_finish nofun)

/-- Every command that R115 lists answers an error only by the abort of the context it names, under its own name. -/
theorem exec_errorsAbort {i : Instr} {q : Nat} {b : BufId} {cmd : CommandName} (s : State)
    (hi : raiser i = some (b, cmd)) (hq : i.requester = some q) : ErrorsAbort q b cmd s (exec i s) := by
  cases i with
  | start q b d ox oy w h => cases hi; cases hq; rw [exec_start]; exact execStart_errorsAbort q b d ox oy w h s
  | image q b p => cases hi; cases hq; rw [exec_image]; exact execImage_errorsAbort q b p s
  | blit q b => cases hi; cases hq; rw [exec_blit]; exact execBlit_errorsAbort q b s
  | endCmd q b d => cases hi; cases hq; rw [exec_endCmd]; exact execEnd_errorsAbort q b d s
  | handoff q b => cases hi; cases hq; rw [exec_handoff]; exact execHandoff_errorsAbort q b s
  | _ => cases hi

/-- Settles O31, by the checks of each command that can raise an error (R121). -/
theorem everyErrorAborts : Obligations.EveryErrorAborts := by
  intro s t i q b cmd e hi hq ht hr
  exact exec_errorsAbort s hi hq t e ht hr

end Sys2Proof.Machine
end

/-! ### The wire records (30_encoding.md) -/

section
namespace Sys2Proof.Machine

open Sys2Proof.Claims

/-! #### The 16-bit fields -/

theorem hi8_eq_ofNat (v : U16) : hi8 v = BitVec.ofNat 8 (v.toNat / 256) := by
  apply BitVec.eq_of_toNat_eq
  simp [hi8, Nat.shiftRight_eq_div_pow]

theorem lo8_eq_ofNat (v : U16) : lo8 v = BitVec.ofNat 8 (v.toNat % 256) := by
  apply BitVec.eq_of_toNat_eq
  simp [lo8]

/-- Settles O53, byte by byte (20_memory.md R44). -/
theorem sixteenBitFieldsInWireOrder : Obligations.SixteenBitFieldsInWireOrder := by
  intro v
  simp only [bytes16, hi8_eq_ofNat, lo8_eq_ofNat, and_self]

/-- A byte sequence that reads as 16-bit fields is the bytes of those fields. -/
theorem flatMap_bytes16_of_words16 {o : WireOrder} {bs : List U8} {vs : List U16} (h : words16 o bs = some vs) :
    vs.flatMap (bytes16 o) = bs := by
  induction bs using words16.induct generalizing vs with
  | case1 => cases h; rfl
  | case2 x y rest ih =>
    rw [words16, Option.map_eq_some_iff] at h
    obtain ⟨ws, hws, rfl⟩ := h
    rw [List.flatMap_cons, bytes16_word16, ih hws]
    rfl
  | case3 x => cases h

/-! #### Decoding what the encoder writes -/

/-- The opcodes are told apart (00_scope.md R7, 30_encoding.md R62). -/
theorem Config.opcodes_distinct {c : Config} (h : c.wf = true) :
    c.opPixel ≠ c.opStart ∧ c.opBlit ≠ c.opStart ∧ c.opEnd ≠ c.opStart ∧ c.opBlit ≠ c.opPixel ∧
      c.opEnd ≠ c.opPixel ∧ c.opEnd ≠ c.opBlit := by
  simp only [Config.wf, Bool.and_eq_true, decide_eq_true_eq, List.nodup_cons, List.mem_cons, List.not_mem_nil,
    or_false, not_or] at h
  obtain ⟨⟨⟨⟨h1, h2, h3⟩, ⟨h4, h5⟩, h6, _⟩, _⟩, _⟩ := h
  exact ⟨Ne.symm h1, Ne.symm h2, Ne.symm h3, Ne.symm h4, Ne.symm h5, Ne.symm h6⟩

/-- The decoder tells a record by the two bytes of its opcode (30_encoding.md R62). -/
theorem decodeRecord_bytes16_append (c : Config) (op : U16) (rest : List U8) :
    decodeRecord c (bytes16 c.wireOrder op ++ rest) =
      if op = c.opStart then decodeStart c rest
      else if op = c.opPixel then decodePixels c rest
      else if op = c.opBlit then decodeBlit rest
      else if op = c.opEnd then decodeEnd c rest
      else .error .unknownOpcode := by
  obtain ⟨x, y, hxy, hop⟩ := bytes16_cases c.wireOrder op
  rw [hxy, ← hop]
  rfl

theorem decodeRecord_startRecord {c : Config} {d : U8} (hd : legalSelector d = true) (ox oy : U8) (w h : U16) :
    decodeRecord c (startRecord c d ox oy w h) = .ok (.startOfData d ox oy w h) := by
  obtain ⟨w0, w1, hw, rfl⟩ := bytes16_cases c.wireOrder w
  obtain ⟨h0, h1, hh, rfl⟩ := bytes16_cases c.wireOrder h
  rw [startRecord, List.append_assoc, List.append_assoc, decodeRecord_bytes16_append, if_pos rfl, hw, hh]
  simp [decodeStart, hd]

theorem decodeRecord_pixelRecord {c : Config} (hc : c.wf = true) {rl : U16} {colors : List U16}
    (hrl : rl.toNat = colors.length / c.blockFactor) :
    decodeRecord c (pixelRecord c rl colors) = .ok (.transmitPixels rl colors) := by
  obtain ⟨hps, -⟩ := Config.opcodes_distinct hc
  obtain ⟨l0, l1, hl, rfl⟩ := bytes16_cases c.wireOrder rl
  rw [pixelRecord, List.append_assoc, decodeRecord_bytes16_append, if_neg hps, if_pos rfl, hl]
  simp [decodePixels, hrl]

theorem decodeRecord_blitRecord {c : Config} (hc : c.wf = true) : decodeRecord c (blitRecord c) = .ok .blitTrigger := by
  obtain ⟨-, hbs, -, hbp, -⟩ := Config.opcodes_distinct hc
  rw [blitRecord, decodeRecord_bytes16_append, if_neg hbs, if_neg hbp, if_pos rfl]
  rfl

/-- The END record decodes to the form that `END_PAD` selects (30_encoding.md R59). -/
theorem decodeRecord_endRecord {c : Config} (hc : c.wf = true) {d : U8} (hd : legalSelector d = true) :
    decodeRecord c (endRecord c d) = .ok (if c.endPad then .endOfDataPad d else .endOfData d) := by
  obtain ⟨-, -, hes, -, hep, heb⟩ := Config.opcodes_distinct hc
  rw [endRecord, decodeRecord_bytes16_append, if_neg hes, if_neg hep, if_neg heb, if_pos rfl]
  cases he : c.endPad <;> simp [decodeEnd, he, hd]

/-- Settles O4, record by record (30_encoding.md R56 to R59). -/
theorem recordDecodesAsEncoded : Obligations.RecordDecodesAsEncoded := by
  intro c i bytes hc hw henc
  show decodeRecord c bytes = .ok i
  cases i with
  | startOfData d ox oy w h => cases henc; exact decodeRecord_startRecord hw ox oy w h
  | transmitPixels rl colors => cases henc; exact decodeRecord_pixelRecord hc (of_decide_eq_true hw)
  | blitTrigger => cases henc; exact decodeRecord_blitRecord hc
  | endOfData d =>
    obtain ⟨hd, he⟩ := Bool.and_eq_true_iff.mp hw
    have he : c.endPad = false := by simpa using he
    simp only [encodeRecord, he] at henc
    cases henc
    rw [decodeRecord_endRecord hc hd, he]
    rfl
  | endOfDataPad d =>
    obtain ⟨hd, he⟩ := Bool.and_eq_true_iff.mp hw
    simp only [encodeRecord, he] at henc
    cases henc
    rw [decodeRecord_endRecord hc hd, he]
    rfl
  | _ => cases henc

/-! #### What the decoder accepts is what the encoder writes -/

theorem eq_startRecord_of_decodeStart {c : Config} {rest : List U8} {i : Instr} (h : decodeStart c rest = .ok i) :
    encodeRecord c i = some (bytes16 c.wireOrder c.opStart ++ rest) ∧ i.wf c = true := by
  unfold decodeStart at h
  split at h
  · rename_i d m z0 z1 z2 z3 z4 z5 ox oy w0 w1 h0 h1
    split at h
    · cases h
    · split at h
      · cases h
      · split at h
        · rename_i hm hz hd
          cases h
          refine ⟨?_, hd⟩
          simp only [ne_eq, not_not, List.cons.injEq, and_true] at hm hz
          obtain ⟨rfl, rfl, rfl, rfl, rfl, rfl⟩ := hz
          simp [encodeRecord, startRecord, hm]
        · cases h
  · cases h

theorem eq_pixelRecord_of_decodePixels {c : Config} {rest : List U8} {i : Instr} (h : decodePixels c rest = .ok i) :
    encodeRecord c i = some (bytes16 c.wireOrder c.opPixel ++ rest) ∧ i.wf c = true := by
  unfold decodePixels at h
  split at h
  · split at h
    · cases h
    · split at h
      · rename_i hwords hrl
        cases h
        refine ⟨?_, decide_eq_true hrl⟩
        simp [encodeRecord, pixelRecord, flatMap_bytes16_of_words16 hwords]
      · cases h
  · cases h

theorem eq_blitRecord_of_decodeBlit {c : Config} {rest : List U8} {i : Instr} (h : decodeBlit rest = .ok i) :
    encodeRecord c i = some (bytes16 c.wireOrder c.opBlit ++ rest) ∧ i.wf c = true := by
  unfold decodeBlit at h
  split at h
  · split at h
    · rename_i hz
      cases h
      rw [hz]
      exact ⟨rfl, rfl⟩
    · cases h
  · cases h

theorem eq_endRecord_of_decodeEnd {c : Config} {rest : List U8} {i : Instr} (h : decodeEnd c rest = .ok i) :
    encodeRecord c i = some (bytes16 c.wireOrder c.opEnd ++ rest) ∧ i.wf c = true := by
  unfold decodeEnd at h
  split at h
  · rename_i he
    split at h
    · cases h
      simp_all [encodeRecord, endRecord, Instr.wf]
    · cases h
  · rename_i he
    split at h
    · cases h
    · split at h
      · cases h
        simp_all [encodeRecord, endRecord, Instr.wf]
      · cases h
  · cases h

/-- Settles O5, by the opcode that the decoder found (30_encoding.md R62, R65). -/
theorem decodedRecordEncodesBack : Obligations.DecodedRecordEncodesBack := by
  intro c bytes i h
  replace h : decodeRecord c bytes = .ok i := h
  match bytes with
  | [] => cases h
  | [_] => cases h
  | o0 :: o1 :: rest =>
    have hop : o0 :: o1 :: rest = bytes16 c.wireOrder (word16 c.wireOrder o0 o1) ++ rest := by
      rw [bytes16_word16]; rfl
    rw [hop] at h ⊢
    rw [decodeRecord_bytes16_append] at h
    split at h
    · rename_i hs; rw [hs]; exact eq_startRecord_of_decodeStart h
    · split at h
      · rename_i hs; rw [hs]; exact eq_pixelRecord_of_decodePixels h
      · split at h
        · rename_i hs; rw [hs]; exact eq_blitRecord_of_decodeBlit h
        · split at h
          · rename_i hs; rw [hs]; exact eq_endRecord_of_decodeEnd h
          · cases h

/-! #### Whole frames (R60, R73) -/

theorem FrameArgs.bytes_eq (c : Config) (f : FrameArgs) :
    f.bytes c = startRecord c f.d f.ox f.oy f.w f.h ++ imageRecord c f.p ++ blitRecord c ++ endRecord c f.d :=
  rfl

@[simp] theorem FrameArgs.bytes_length (c : Config) (f : FrameArgs) :
    (f.bytes c).length = frameLength c (pixelCount f.p) := by
  rw [FrameArgs.bytes, List.length_append, FrameArgs.upToBlit_length, endRecord_length, frameLength]
  omega

/-- Settles O9, by the lengths of the four records. -/
theorem frameLengthIsExact : Obligations.FrameLengthIsExact :=
  fun c f => ⟨FrameArgs.bytes_eq c f, FrameArgs.bytes_length c f⟩

/-- The bytes at the place of a middle part are that part. -/
theorem bytesAt_append {xs ys zs : List U8} {off n : Nat} (hoff : off = xs.length) (hn : n = ys.length) :
    bytesAt (xs ++ ys ++ zs) off n = ys := by
  rw [hoff, hn, bytesAt, List.append_assoc, List.drop_left, List.take_left]

/-- The run length of a legal frame fits its field (30_encoding.md R63). -/
theorem FrameArgs.legal.runLength_toNat {c : Config} {f : FrameArgs} (hf : f.legal c) :
    (BitVec.ofNat 16 (runLength c f.p)).toNat = (pixelColors f.p).length / c.blockFactor := by
  obtain ⟨-, -, hr⟩ := hf
  rw [BitVec.toNat_ofNat, Nat.mod_eq_of_lt (by omega), pixelColors_length, runLength]

/-- `parse` gives back the operands and the colors of every legal frame (R73). -/
theorem parseFrame_bytes {c : Config} {f : FrameArgs} (hc : c.wf = true) (hf : f.legal c) :
    parseFrame c (f.bytes c) = some ⟨f.d, f.ox, f.oy, f.w, f.h, pixelColors f.p⟩ := by
  have hd : legalSelector f.d = true := hf.1
  have hn : ((f.bytes c).length - 27 - c.padLen) / 2 = pixelCount f.p := by
    rw [FrameArgs.bytes_length, frameLength]; omega
  have hstart : bytesAt (f.bytes c) 0 16 = startRecord c f.d f.ox f.oy f.w f.h := by
    rw [FrameArgs.bytes_eq, List.append_assoc, List.append_assoc]
    exact bytesAt_append (xs := []) rfl (startRecord_length ..).symm
  have himage : bytesAt (f.bytes c) 16 (4 + 2 * pixelCount f.p) = imageRecord c f.p := by
    rw [FrameArgs.bytes_eq, List.append_assoc]
    exact bytesAt_append (startRecord_length ..).symm (imageRecord_length ..).symm
  have hblit : bytesAt (f.bytes c) (20 + 2 * pixelCount f.p) 4 = blitRecord c :=
    bytesAt_append (FrameArgs.upToImage_length c f).symm (blitRecord_length c).symm
  have hend : bytesAt (f.bytes c) (24 + 2 * pixelCount f.p) (3 + c.padLen) = endRecord c f.d := by
    rw [← List.append_nil (f.bytes c)]
    exact bytesAt_append (FrameArgs.upToBlit_length c f).symm (endRecord_length c f.d).symm
  unfold parseFrame
  simp only [hn]
  rw [if_pos (frameLengthIsExact c f).2, hstart, himage, hblit, hend, decodeRecord_startRecord hd, imageRecord,
    decodeRecord_pixelRecord hc hf.runLength_toNat, decodeRecord_blitRecord hc, decodeRecord_endRecord hc hd]
  cases c.endPad <;> simp

/-- Settles O8: a sound state's transport writes are whole frames, which parse. -/
theorem frameParsesBack : Obligations.FrameParsesBack := by
  refine ⟨fun c f hc hf => parseFrame_bytes hc hf, fun s hs x hx => ?_⟩
  obtain ⟨f, hf, hbytes⟩ := hs.frames x hx
  exact ⟨_, hbytes ▸ parseFrame_bytes hs.params hf⟩

/-- Settles O3, by running the decoder on each word. -/
theorem writtenWordsDecode : Obligations.WrittenWordsDecode := by
  unfold Obligations.WrittenWordsDecode
  decide

/-! #### The colors of an image (20_memory.md R35, R36) -/

/-- Settles O52: a whole pixel has its four input bytes. -/
theorem colorsArePixelsInOrder : Obligations.ColorsArePixelsInOrder := by
  intro p k
  refine ⟨fun hk => ?_, fun hk => List.getElem?_eq_none (by rwa [pixelColors_length, pixelCount])⟩
  have hbyte : ∀ (j : Nat) (hj : j < 4), p[4 * k + j]? = some (p[4 * k + j]'(by omega)) := fun j hj =>
    List.getElem?_eq_getElem _
  exact ⟨_, _, _, _, hbyte 0 (by omega), hbyte 1 (by omega), hbyte 2 (by omega), hbyte 3 (by omega),
    pixelColors_getElem? (hbyte 0 (by omega)) (hbyte 1 (by omega)) (hbyte 2 (by omega)) (hbyte 3 (by omega))⟩

/-! #### The top bit of the blue field (40_quantizer.md R79) -/

theorem div_seven_testBit_five (n : Nat) (hn : n < 256) : (n / 7).testBit 5 = true ↔ 224 ≤ n := by
  rw [Nat.testBit_eq_decide_div_mod_eq, decide_eq_true_eq]
  omega

/-- Only the reduced blue reaches bit 16. -/
theorem testBit_quantWide_sixteen (r g bl : U8) : (quantWide r g bl).testBit 16 = (bl.toNat / 7).testBit 5 := by
  have hr : (r.toNat / 7).testBit 16 = false := Nat.testBit_lt_two_pow (by have := r.isLt; omega)
  have hg : (g.toNat / 3).testBit 10 = false := Nat.testBit_lt_two_pow (by have := g.isLt; omega)
  simp [testBit_quantWide, hr, hg]

/-- The cut to 16 bits takes from the blue field what lies past its five low bits. -/
theorem quantize_toNat (r g bl a : U8) :
    (quantize r g bl a).toNat = (r.toNat / 7) ||| ((g.toNat / 3) <<< 6) ||| ((bl.toNat / 7 % 32) <<< 11) := by
  have hr : r.toNat / 7 % 2 ^ 16 = r.toNat / 7 := Nat.mod_eq_of_lt (by have := r.isLt; omega)
  have hg : (g.toNat / 3) <<< 6 % 2 ^ 16 = (g.toNat / 3) <<< 6 :=
    Nat.mod_eq_of_lt (by have := g.isLt; rw [Nat.shiftLeft_eq]; omega)
  have hb : (bl.toNat / 7) <<< 11 % 2 ^ 16 = (bl.toNat / 7 % 32) <<< 11 := by
    simp only [Nat.shiftLeft_eq]; omega
  rw [quantize, BitVec.toNat_ofNat, quantWide, Nat.or_mod_two_pow, Nat.or_mod_two_pow, hr, hg, hb]

/-- Settles O12: only the reduced blue reaches bit 16, and the cut to 16 bits drops it. -/
theorem topBlueBitIsDropped : Obligations.TopBlueBitIsDropped := by
  refine ⟨fun r g bl a => ⟨testBit_quantWide_sixteen r g bl, ?_, BitVec.toNat_ofNat .., quantize_toNat r g bl a⟩,
    by decide, by decide⟩
  rw [testBit_quantWide_sixteen, div_seven_testBit_five _ bl.isLt]

/-! #### The reference capacity (20_memory.md R49, R50) -/

/-- Settles O49: the pad counts on both sides, and the rest is arithmetic. -/
theorem referenceCapacityThreshold : Obligations.ReferenceCapacityThreshold := by
  intro c n
  refine ⟨by unfold frameLength capRef; omega, fun he => ?_⟩
  have hpad : c.padLen = 0 := by simp [Config.padLen, he]
  simp [capRef, frameLength, hpad]

end Sys2Proof.Machine
end

/-! ### Invariants (10_state.md) -/

section
namespace Sys2Proof.Machine

open Sys2Proof.Claims

/-! #### What one command writes outside the contexts -/

/-- A command leaves the parameters, the host input and the queue alone, and never clears the mark. -/
theorem Basic.kept {q : Nat} {s t : State} (h : Basic q s t) :
    t.cfg = s.cfg ∧ t.transportAttached = s.transportAttached ∧ (s.refused = true → t.refused = true) ∧
      t.pending = s.pending := by
  cases h <;> simp

/-- A command only appends to the logs. -/
theorem Basic.logs {q : Nat} {s t : State} (h : Basic q s t) : s.xferLog <+: t.xferLog ∧ s.errLog <+: t.errLog := by
  cases h <;> simp

/-- Settles O46: an instruction is a sequence of commands, each of which keeps these fields. -/
theorem parametersAreNeverWritten : Obligations.ParametersAreNeverWritten := by
  intro s t i h
  obtain ⟨q, -, hsteps⟩ := exec_steps h
  refine hsteps.induct (P := fun u => u.cfg = s.cfg ∧ u.transportAttached = s.transportAttached ∧
    (s.refused = true → u.refused = true) ∧ u.pending = s.pending) (fun u v hb hu => ?_) ⟨rfl, rfl, id, rfl⟩
  obtain ⟨hcfg, hatt, href, hpend⟩ := hu
  obtain ⟨hcfg', hatt', href', hpend'⟩ := hb.kept
  exact ⟨hcfg'.trans hcfg, hatt'.trans hatt, href' ∘ href, hpend'.trans hpend⟩

/-- Settles O45: each command of a step only appends. -/
theorem logsOnlyGrow : Obligations.LogsOnlyGrow := by
  intro s t h
  refine step_induct (P := fun u => s.xferLog <+: u.xferLog ∧ s.errLog <+: u.errLog) (fun q u v _ hb hu => ?_)
    (fun q u v hb => hb.cfg) (fun _ hu => hu) (fun _ _ hu => hu) h ⟨List.prefix_rfl, List.prefix_rfl⟩
  exact ⟨hu.1.trans hb.logs.1, hu.2.trans hb.logs.2⟩

/-! #### The ways a command changes a context -/

/-- How one command other than a HANDOFF can change a context of a block with parameters `c`, whose buffer holds `cap`
bytes; the checks that the command passed stand with it. -/
inductive ContextStep (c : Config) (cap : Nat) (k : Context) : Context → Prop
  | same : ContextStep c cap k k
  | cleared : ContextStep c cap k Context.reset
  | started (d ox oy : U8) (w h : U16) (hst : k.stage = .idle) (hd : legalSelector d = true)
      (hf : k.cursor + 16 ≤ cap) : ContextStep c cap k (k.writeStart c d ox oy w h)
  | imaged (p : List U8) (hst : k.stage = .headerWritten) (hl : p.length % 4 = 0) (hr : runLength c p ≤ 0xFFFF)
      (hf : k.cursor + (4 + 2 * pixelCount p) ≤ cap) : ContextStep c cap k (k.writeImage c p)
  | blitted (hst : k.stage = .pixelsWritten) (hf : k.cursor + 4 ≤ cap) : ContextStep c cap k (k.writeBlit c)
  | ended (d : U8) (hst : k.stage = .blitIssued) (hm : k.disp = some d) (hf : k.cursor + (3 + c.padLen) ≤ cap) :
      ContextStep c cap k (k.writeEnd c d)
  | aborted (e : ErrorKind) : ContextStep c cap k (k.abortSelf e)
  | overflowed (n : Nat) (e : ErrorKind) : ContextStep c cap k ((k.overflowed cap n).abortSelf e)
  | abortedByOther : ContextStep c cap k k.abortOther

/-- Replacing context `b` makes no transport write and leaves the other context alone. -/
theorem contextSteps_setCtx {s : State} {b : BufId} {k : Context}
    (h : ContextStep s.cfg (s.cfg.capacity b) (s.ctx b) k) (y : Option Reply) :
    ({ s.setCtx b k with reply := y } : State).xferLog = s.xferLog ∧
      ∀ b', ContextStep s.cfg (s.cfg.capacity b') (s.ctx b') (({ s.setCtx b k with reply := y } : State).ctx b') := by
  refine ⟨State.setCtx_xferLog s b k, fun b' => ?_⟩
  simp only [State.ctx_reply]
  rcases eq_or_eq_other b b' with rfl | rfl
  · rwa [State.setCtx_ctx]
  · rw [State.setCtx_ctx_other]
    exact .same

theorem contextStep_abort (s : State) (b : BufId) (e : ErrorKind) (cmd : CommandName) (b' : BufId) :
    ContextStep s.cfg (s.cfg.capacity b') (s.ctx b') ((s.abort b e cmd).ctx b') := by
  rcases eq_or_eq_other b b' with rfl | rfl
  · rw [State.abort_ctx, State.beforeAbort_ctx]
    split
    · exact .overflowed _ e
    · exact .aborted e
  · rw [State.abort_ctx_other]
    exact .abortedByOther

/-- What one command does to the contexts: it makes no transport write, or it is the HANDOFF of a `Closed` context. -/
theorem Basic.effect {q : Nat} {s t : State} (h : Basic q s t) :
    (t.xferLog = s.xferLog ∧ ∀ b', ContextStep s.cfg (s.cfg.capacity b') (s.ctx b') (t.ctx b')) ∨
      ∃ b, (s.ctx b).stage = .closed ∧ t.xferLog = s.xferLog ++ [⟨b, (s.ctx b).frameBytes s.freeCount⟩] ∧
        t.ctx b = (s.ctx b).consume ∧ t.ctx (other b) = s.ctx (other b) := by
  cases h with
  | replied r => exact .inl ⟨rfl, fun b' => by cases b' <;> exact .same⟩
  | refused r => exact .inl ⟨rfl, fun b' => by cases b' <;> exact .same⟩
  | granted ha hb => exact .inl ⟨rfl, fun b' => by cases b' <;> exact .same⟩
  | released hq hm => exact .inl ⟨rfl, fun b' => by cases b' <;> exact .same⟩
  | cleared b hq hm => exact .inl (contextSteps_setCtx .cleared _)
  | raised b e cmd hq =>
    refine .inl ⟨State.abort_xferLog s b e cmd, fun b' => ?_⟩
    rw [State.ctx_reply]
    exact contextStep_abort s b e cmd b'
  | started b d ox oy w h hq hst hd hf =>
    exact .inl (contextSteps_setCtx (.started d ox oy w h hst hd ((s.fits_iff b _).mp hf)) _)
  | imaged b p hq hst hl hr hf =>
    exact .inl (contextSteps_setCtx (.imaged p hst hl hr ((s.fits_iff b _).mp hf)) _)
  | blitted b hq hst hf => exact .inl (contextSteps_setCtx (.blitted hst ((s.fits_iff b _).mp hf)) _)
  | ended b d hq hst hd hm hf => exact .inl (contextSteps_setCtx (.ended d hst hm ((s.fits_iff b _).mp hf)) _)
  | handedOff b hq hst hn hc =>
    refine .inr ⟨b, hst, rfl, ?_, ?_⟩
    · rw [State.ctx_mk (s.setCtx b (s.ctx b).consume), State.setCtx_ctx]
    · rw [State.ctx_mk (s.setCtx b (s.ctx b).consume), State.setCtx_ctx_other]

/-- What one command does to either context. -/
theorem Basic.contextStep {q : Nat} {s t : State} (h : Basic q s t) (b : BufId) :
    ContextStep s.cfg (s.cfg.capacity b) (s.ctx b) (t.ctx b) ∨
      ((s.ctx b).stage = .closed ∧ t.ctx b = (s.ctx b).consume) := by
  rcases h.effect with ⟨-, hctx⟩ | ⟨b', hst, -, hself, hother⟩
  · exact .inl (hctx b)
  · rcases eq_or_eq_other b' b with rfl | rfl
    · exact .inr ⟨hst, hself⟩
    · rw [hother]
      exact .inl .same

/-! #### Buffers stay within their capacity (R23, 20_memory.md R48) -/

/-- The buffer is canonical, its cursor within the capacity, and no byte at or past the capacity has a value. -/
structure Context.InBuffer (k : Context) (cap : Nat) : Prop where
  canonical : k.tb.wf = true
  cursorFits : k.cursor ≤ cap
  beyond : ∀ a, cap ≤ a → k.tb.read a = none

/-- An empty buffer is within any capacity that admits the cursor. -/
theorem Context.InBuffer.of_empty {k : Context} {cap : Nat} (ht : k.tb = []) (hc : k.cursor ≤ cap) : k.InBuffer cap :=
  ⟨by rw [ht]; rfl, hc, fun a _ => by rw [ht, Memory.read_nil]⟩

/-- Only the bytes and the cursor count. -/
theorem Context.InBuffer.congr {k k' : Context} {cap : Nat} (h : k.InBuffer cap) (ht : k'.tb = k.tb)
    (hc : k'.cursor = k.cursor) : k'.InBuffer cap :=
  ⟨ht ▸ h.canonical, hc ▸ h.cursorFits, ht ▸ h.beyond⟩

/-- A put that the bound check admits stays within the buffer (20_memory.md R48). -/
theorem Context.InBuffer.putBytes {k : Context} {cap : Nat} (h : k.InBuffer cap) {bs : List U8}
    (hf : k.cursor + bs.length ≤ cap) : (k.putBytes bs).InBuffer cap where
  canonical := k.wf_putBytes h.canonical bs
  cursorFits := hf
  beyond a ha := by
    rw [k.read_putBytes h.canonical, if_neg (by omega)]
    exact h.beyond a ha

/-- What BUFFER_OVERFLOW leaves stays within the buffer (60_exceptions.md R121). -/
theorem Context.InBuffer.overflowed {k : Context} {cap : Nat} (h : k.InBuffer cap) (n : Nat) :
    (k.overflowed cap n).InBuffer cap where
  canonical := Memory.wf_dropFrom k.tb h.canonical k.cursor
  cursorFits := (k.overflowed_cursor_range cap n h.cursorFits).2
  beyond a ha := by
    rw [Context.overflowed_tb, Memory.read_dropFrom, h.beyond a ha, ite_self]

theorem ContextStep.inBuffer {c : Config} {cap : Nat} {k k' : Context} (h : ContextStep c cap k k')
    (hk : k.InBuffer cap) : k'.InBuffer cap := by
  cases h with
  | same => exact hk
  | cleared => exact .of_empty rfl (Nat.zero_le _)
  | started d ox oy w h hst hd hf =>
    rw [Context.writeStart_eq]
    exact (hk.putBytes (by rwa [startRecord_length])).congr rfl rfl
  | imaged p hst hl hr hf =>
    rw [Context.writeImage_eq]
    exact (hk.putBytes (by rwa [imageRecord_length])).congr rfl rfl
  | blitted hst hf =>
    rw [Context.writeBlit_eq]
    exact (hk.putBytes (by rwa [blitRecord_length])).congr rfl rfl
  | ended d hst hm hf =>
    rw [Context.writeEnd_eq]
    exact (hk.putBytes (by rwa [endRecord_length])).congr rfl rfl
  | aborted e => exact hk.congr rfl rfl
  | overflowed n e => exact (hk.overflowed n).congr rfl rfl
  | abortedByOther => exact hk.congr k.abortOther_tb k.abortOther_cursor

theorem Context.InBuffer.consume {k : Context} {cap : Nat} (h : k.InBuffer cap) : k.consume.InBuffer cap :=
  .of_empty rfl h.cursorFits

theorem Basic.inBuffer {q : Nat} {s t : State} (h : Basic q s t) {b : BufId}
    (hk : (s.ctx b).InBuffer (s.cfg.capacity b)) : (t.ctx b).InBuffer (t.cfg.capacity b) := by
  rw [h.cfg]
  rcases h.contextStep b with hstep | ⟨-, heq⟩
  · exact hstep.inBuffer hk
  · rw [heq]
    exact hk.consume

/-- Settles O44: every command keeps both buffers so. -/
theorem everyStepStaysInsideBuffers : Obligations.EveryStepStaysInsideBuffers := by
  intro s t hs hstep
  have ht : ∀ b, (t.ctx b).InBuffer (t.cfg.capacity b) := by
    refine step_induct (P := fun u => ∀ b, (u.ctx b).InBuffer (u.cfg.capacity b))
      (fun q u v _ hb hu b => hb.inBuffer (hu b)) (fun q u v hb => hb.cfg) (fun u hu b => ?_) (fun u on hu b => ?_) hstep fun b => ?_
    · rw [State.taken_ctx]; exact hu b
    · rw [State.attach_ctx]; exact hu b
    · obtain ⟨hwf, hcur, hread⟩ := hs b
      exact ⟨hwf, hcur, hread⟩
  exact fun b => ⟨(ht b).canonical, (ht b).cursorFits, (ht b).beyond⟩

/-! #### A context keeps to the records of one frame (R26, R32) -/

theorem Context.Sound.toInBuffer {k : Context} {c : Config} {cap : Nat} (h : k.Sound c cap) : k.InBuffer cap :=
  ⟨h.canonical, h.cursorFits, h.inBuffer⟩

/-- A sound context is one within its buffer, with a legal selector and the frame that its stage promises. -/
theorem Context.InBuffer.sound {k : Context} {c : Config} {cap : Nat} (h : k.InBuffer cap)
    (hsel : ∀ d, k.disp = some d → legalSelector d = true) (hcar : k.Carries c) : k.Sound c cap :=
  ⟨h.canonical, h.beyond, h.cursorFits, hsel, hcar⟩

/-- Of an `Aborted` context nothing is promised. -/
theorem Context.carries_of_aborted {k : Context} {c : Config} (h : k.stage = .aborted) : k.Carries c := by
  unfold Context.Carries
  rw [h]
  trivial

theorem Context.carries_reset (c : Config) : Context.reset.Carries c :=
  ⟨⟨rfl, rfl⟩, rfl, rfl⟩

section
variable {k : Context} {c : Config}

theorem Context.Carries.wrote_idle (h : k.Carries c) (hst : k.stage = .idle) :
    k.Wrote [] ∧ k.disp = none ∧ k.err = none := by
  unfold Context.Carries at h
  rwa [hst] at h

theorem Context.Carries.wrote_headerWritten (h : k.Carries c) (hst : k.stage = .headerWritten) :
    ∃ f : FrameArgs, f.legal c ∧ k.Wrote (f.upToStart c) ∧ k.disp = some f.d ∧ k.err = none := by
  unfold Context.Carries at h
  rwa [hst] at h

theorem Context.Carries.wrote_pixelsWritten (h : k.Carries c) (hst : k.stage = .pixelsWritten) :
    ∃ f : FrameArgs, f.legal c ∧ k.Wrote (f.upToImage c) ∧ k.disp = some f.d ∧ k.err = none := by
  unfold Context.Carries at h
  rwa [hst] at h

theorem Context.Carries.wrote_blitIssued (h : k.Carries c) (hst : k.stage = .blitIssued) :
    ∃ f : FrameArgs, f.legal c ∧ k.Wrote (f.upToBlit c) ∧ k.disp = some f.d ∧ k.err = none := by
  unfold Context.Carries at h
  rwa [hst] at h

theorem Context.Carries.wrote_closed (h : k.Carries c) (hst : k.stage = .closed) :
    ∃ f : FrameArgs, f.legal c ∧ k.Wrote (f.bytes c) ∧ k.disp = some f.d ∧ k.err = none := by
  unfold Context.Carries at h
  rwa [hst] at h

/-! Each encoder command adds the next record of the frame. -/

/-- START begins a frame; its image is still to come, so any legal one stands for it. -/
theorem Context.Carries.writeStart (h : k.Carries c) (hst : k.stage = .idle) {d : U8} (hd : legalSelector d = true)
    (ox oy : U8) (w hh : U16) : (k.writeStart c d ox oy w hh).Carries c := by
  obtain ⟨hw, -, herr⟩ := h.wrote_idle hst
  rw [Context.writeStart_eq]
  exact ⟨⟨d, ox, oy, w, hh, []⟩, ⟨hd, rfl, by simp [runLength, pixelCount]⟩, hw.putBytes _, rfl, herr⟩

/-- IMAGE brings the pixels of the frame. -/
theorem Context.Carries.writeImage (h : k.Carries c) (hst : k.stage = .headerWritten) {p : List U8}
    (hl : p.length % 4 = 0) (hr : runLength c p ≤ 0xFFFF) : (k.writeImage c p).Carries c := by
  obtain ⟨f, hf, hw, hdisp, herr⟩ := h.wrote_headerWritten hst
  rw [Context.writeImage_eq]
  exact ⟨{ f with p := p }, ⟨hf.1, hl, hr⟩, hw.putBytes _, hdisp, herr⟩

theorem Context.Carries.writeBlit (h : k.Carries c) (hst : k.stage = .pixelsWritten) : (k.writeBlit c).Carries c := by
  obtain ⟨f, hf, hw, hdisp, herr⟩ := h.wrote_pixelsWritten hst
  rw [Context.writeBlit_eq]
  exact ⟨f, hf, hw.putBytes _, hdisp, herr⟩

/-- END closes the frame with the selector that START latched (41_frame_encoder.md R93). -/
theorem Context.Carries.writeEnd (h : k.Carries c) (hst : k.stage = .blitIssued) {d : U8} (hm : k.disp = some d) :
    (k.writeEnd c d).Carries c := by
  obtain ⟨f, hf, hw, hdisp, herr⟩ := h.wrote_blitIssued hst
  obtain rfl : f.d = d := Option.some.inj (hdisp.symm.trans hm)
  rw [Context.writeEnd_eq]
  exact ⟨f, hf, hw.putBytes _, hdisp, herr⟩

theorem Context.Carries.consume (h : k.Carries c) (hst : k.stage = .closed) : k.consume.Carries c := by
  obtain ⟨f, -, ⟨-, hcur⟩, -, herr⟩ := h.wrote_closed hst
  exact ⟨rfl, ⟨_, hcur.trans (FrameArgs.bytes_length c f)⟩, herr⟩

end

/-- An abort of the other context leaves a context as it is, or `Aborted` (60_exceptions.md R121). -/
theorem Context.abortOther_cases (k : Context) :
    (k.stage.inEncode = false ∧ k.abortOther = k) ∨
      (k.stage.inEncode = true ∧ k.abortOther = { k with stage := .aborted }) := by
  unfold Context.abortOther
  cases h : k.stage.inEncode
  · exact .inl ⟨rfl, rfl⟩
  · exact .inr ⟨rfl, rfl⟩

theorem ContextStep.carries {c : Config} {cap : Nat} {k k' : Context} (h : ContextStep c cap k k')
    (hk : k.Carries c) : k'.Carries c := by
  cases h with
  | same => exact hk
  | cleared => exact Context.carries_reset c
  | started d ox oy w h hst hd hf => exact hk.writeStart hst hd ox oy w h
  | imaged p hst hl hr hf => exact hk.writeImage hst hl hr
  | blitted hst hf => exact hk.writeBlit hst
  | ended d hst hm hf => exact hk.writeEnd hst hm
  | aborted e => exact Context.carries_of_aborted rfl
  | overflowed n e => exact Context.carries_of_aborted rfl
  | abortedByOther =>
    rcases k.abortOther_cases with ⟨-, heq⟩ | ⟨-, heq⟩
    · rwa [heq]
    · rw [heq]
      exact Context.carries_of_aborted rfl

/-- A command latches no selector but a legal one (R24). -/
theorem ContextStep.selector {c : Config} {cap : Nat} {k k' : Context} (h : ContextStep c cap k k')
    (hk : ∀ d, k.disp = some d → legalSelector d = true) : ∀ d, k'.disp = some d → legalSelector d = true := by
  cases h with
  | same => exact hk
  | cleared => exact nofun
  | started d ox oy w h hst hd hf =>
    rw [Context.writeStart_eq]
    rintro d' ⟨⟩
    exact hd
  | imaged p hst hl hr hf => rw [Context.writeImage_eq]; exact hk
  | blitted hst hf => rw [Context.writeBlit_eq]; exact hk
  | ended d hst hm hf => rw [Context.writeEnd_eq]; exact hk
  | aborted e => exact hk
  | overflowed n e => exact hk
  | abortedByOther => rw [Context.abortOther_disp]; exact hk

theorem ContextStep.sound {c : Config} {cap : Nat} {k k' : Context} (h : ContextStep c cap k k')
    (hk : k.Sound c cap) : k'.Sound c cap :=
  (h.inBuffer hk.toInBuffer).sound (h.selector hk.selector) (h.carries hk.carries)

theorem Context.Sound.consume {k : Context} {c : Config} {cap : Nat} (h : k.Sound c cap) (hst : k.stage = .closed) :
    k.consume.Sound c cap :=
  h.toInBuffer.consume.sound h.selector (h.carries.consume hst)

theorem Basic.contextSound {q : Nat} {s t : State} (h : Basic q s t) {b : BufId}
    (hk : (s.ctx b).Sound s.cfg (s.cfg.capacity b)) : (t.ctx b).Sound t.cfg (t.cfg.capacity b) := by
  rw [h.cfg]
  rcases h.contextStep b with hstep | ⟨hst, heq⟩
  · exact hstep.sound hk
  · rw [heq]
    exact hk.consume hst

theorem Context.sound_reset (c : Config) (cap : Nat) : Context.reset.Sound c cap :=
  (Context.InBuffer.of_empty rfl (Nat.zero_le _)).sound nofun (Context.carries_reset c)

/-! #### The session stays consistent (R28, 60_exceptions.md R127, 42_session_control.md R106) -/

/-- After an abort no context is mid-frame (60_exceptions.md R121). -/
theorem State.abort_midFrame (s : State) (b : BufId) (e : ErrorKind) (cmd : CommandName) (b' : BufId) :
    ((s.abort b e cmd).ctx b').stage.midFrame = false := by
  rcases eq_or_eq_other b b' with rfl | rfl
  · rw [State.abort_ctx]
    rfl
  · rw [State.abort_ctx_other, Context.abortOther_stage]
    cases (s.ctx (other b)).stage <;> rfl

/-- Within a session only the fields of the session count, not the contexts. -/
theorem State.SessionSound.congr {s t : State} (h : s.SessionSound) (hbusy : s.busy = true) (hb : t.busy = s.busy)
    (ho : t.owner = s.owner) (hc : t.cfg = s.cfg) (hx : t.xferLog = s.xferLog) (hh : t.handedOff = s.handedOff) :
    t.SessionSound where
  ownerIff := by rw [ho, hb]; exact h.ownerIff
  ownerExists := by rw [ho, hc]; exact h.ownerExists
  quiet hf := by rw [hb, hbusy] at hf; cases hf
  sentOnce := hh ▸ h.sentOnce
  sentLogged := by rw [hh, hx]; exact h.sentLogged

theorem State.SessionSound.granted {s t : State} {q : Nat} (hq : q < s.cfg.numReq) (hb : t.busy = true)
    (ho : t.owner = some q) (hc : t.cfg = s.cfg) (hh : t.handedOff = []) : t.SessionSound where
  ownerIff := by rw [ho, hb]; exact ⟨nofun, nofun⟩
  ownerExists q' hq' := by
    rw [ho] at hq'
    cases hq'
    rwa [hc]
  quiet hf := by rw [hb] at hf; cases hf
  sentOnce := hh ▸ List.nodup_nil
  sentLogged := hh ▸ List.nil_suffix

/-- A session that ends leaves no frame half written. -/
theorem State.SessionSound.ended {s t : State} (h : s.SessionSound) (hb : t.busy = false) (ho : t.owner = none)
    (hm : t.anyMidFrame = false) (hx : t.xferLog = s.xferLog) (hh : t.handedOff = s.handedOff) : t.SessionSound where
  ownerIff := by rw [ho, hb]; exact ⟨fun _ => rfl, fun _ => rfl⟩
  ownerExists q' hq' := by rw [ho] at hq'; cases hq'
  quiet _ := hm
  sentOnce := hh ▸ h.sentOnce
  sentLogged := by rw [hh, hx]; exact h.sentLogged

/-- One command of an existing requester keeps the session consistent. -/
theorem Basic.sessionSound {q : Nat} {s t : State} (h : Basic q s t) (hn : q < s.cfg.numReq)
    (hs : s.SessionSound) : t.SessionSound := by
  have hbusy : s.holdsSession q = true → s.busy = true := fun hq => ((s.holdsSession_iff q).mp hq).1
  cases h with
  | replied r => exact ⟨hs.ownerIff, hs.ownerExists, hs.quiet, hs.sentOnce, hs.sentLogged⟩
  | refused r => exact ⟨hs.ownerIff, hs.ownerExists, hs.quiet, hs.sentOnce, hs.sentLogged⟩
  | granted ha hb => exact .granted (s := s) hn rfl rfl rfl rfl
  | released hq hm => exact hs.ended rfl rfl hm rfl rfl
  | cleared b hq hm => exact hs.congr (hbusy hq) (by simp) (by simp) (by simp) (by simp) (by simp)
  | raised b e cmd hq =>
    refine hs.ended rfl rfl ((State.anyMidFrame_eq_false_iff _).mpr fun b' => ?_) (by simp) (by simp)
    rw [State.ctx_reply]
    exact s.abort_midFrame b e cmd b'
  | started b d ox oy w h hq hst hd hf => exact hs.congr (hbusy hq) (by simp) (by simp) (by simp) (by simp) (by simp)
  | imaged b p hq hst hl hr hf => exact hs.congr (hbusy hq) (by simp) (by simp) (by simp) (by simp) (by simp)
  | blitted b hq hst hf => exact hs.congr (hbusy hq) (by simp) (by simp) (by simp) (by simp) (by simp)
  | ended b d hq hst hd hm hf => exact hs.congr (hbusy hq) (by simp) (by simp) (by simp) (by simp) (by simp)
  | handedOff b hq hst hfresh hc =>
    refine ⟨?_, ?_, fun hf => ?_, ?_, ?_⟩
    · simpa using hs.ownerIff
    · simpa using hs.ownerExists
    · simp [hbusy hq] at hf
    · exact List.nodup_append.mpr ⟨hs.sentOnce, List.nodup_singleton b, by
        rintro x hx y hy rfl
        exact hfresh (List.mem_singleton.mp hy ▸ hx)⟩
    · simp only [List.map_append, List.map_cons, List.map_nil]
      obtain ⟨earlier, heq⟩ := hs.sentLogged
      exact ⟨earlier, by rw [← heq, List.append_assoc]⟩

theorem State.SessionSound.taken {s : State} (h : s.SessionSound) : s.taken.SessionSound :=
  ⟨h.ownerIff, h.ownerExists, h.quiet, h.sentOnce, h.sentLogged⟩

theorem State.SessionSound.attach {s : State} (h : s.SessionSound) (on : Bool) : (s.attach on).SessionSound :=
  ⟨h.ownerIff, h.ownerExists, h.quiet, h.sentOnce, h.sentLogged⟩

/-- Settles O43: each command of a step keeps the session consistent. -/
theorem everyStepKeepsSessionConsistent : Obligations.EveryStepKeepsSessionConsistent :=
  fun _ _ hs hstep =>
    step_induct (fun _ _ _ hq hb hu => hb.sessionSound hq hu) (fun _ _ _ hb => hb.cfg) (fun _ hu => hu.taken)
      (fun _ on hu => hu.attach on) hstep hs

/-! #### Sound states -/

theorem Basic.sound {q : Nat} {s t : State} (h : Basic q s t) (hn : q < s.cfg.numReq) (hs : s.Sound) : t.Sound where
  params := h.cfg ▸ hs.params
  session := h.sessionSound hn hs.session
  context b := h.contextSound (hs.context b)
  frames x hx := by
    rw [h.cfg]
    rcases h.effect with ⟨hlog, -⟩ | ⟨b, hst, hlog, -⟩
    · exact hs.frames x (hlog ▸ hx)
    · rw [hlog, List.mem_append, List.mem_singleton] at hx
      rcases hx with hx | rfl
      · exact hs.frames x hx
      · obtain ⟨f, hf, hw, -⟩ := (hs.context b).carries.wrote_closed hst
        exact ⟨f, hf, hw.frameBytes _⟩

theorem State.Sound.taken {s : State} (h : s.Sound) : s.taken.Sound :=
  ⟨h.params, h.session.taken, fun b => by rw [State.taken_ctx]; exact h.context b, h.frames⟩

theorem State.Sound.attach {s : State} (h : s.Sound) (on : Bool) : (s.attach on).Sound :=
  ⟨h.params, h.session.attach on, fun b => by rw [State.attach_ctx]; exact h.context b, h.frames⟩

/-- Settles O42: each command of a step keeps the session consistent, either context sound and the frames whole. -/
theorem everyStepKeepsSound : Obligations.EveryStepKeepsSound :=
  fun _ _ hs hstep =>
    step_induct (fun _ _ _ hq hb hu => hb.sound hq hu) (fun _ _ _ hb => hb.cfg) (fun _ hu => hu.taken)
      (fun _ on hu => hu.attach on) hstep hs

/-! #### Reset (70_reset_and_hazards.md R135) -/

@[simp] theorem State.resetWith_ctx (c : Config) (attached : Bool) (b : BufId) :
    (State.resetWith c attached).ctx b = Context.reset := by
  cases b <;> rfl

/-- Settles O1: either context is the reset context, and the other fields are written out. -/
theorem resetValues : Obligations.ResetValues := by
  intro c attached b s
  have hctx : s.ctx b = Context.reset := State.resetWith_ctx c attached b
  rw [hctx]
  exact ⟨rfl, rfl, rfl, rfl, rfl, rfl, rfl, rfl, rfl, rfl, Memory.read_nil⟩

/-- Settles O41: nothing is in flight, nothing was sent, and the reset context is sound. -/
theorem resetIsSound : Obligations.ResetIsSound := by
  intro c attached hc
  refine ⟨hc, ⟨⟨fun _ => rfl, fun _ => rfl⟩, nofun, fun _ => rfl, List.nodup_nil, List.nil_suffix⟩, fun b => ?_, nofun⟩
  rw [State.resetWith_ctx]
  exact Context.sound_reset c _

/-- Settles O50: after reset every context is `Idle` and the log is empty. -/
theorem resetIsConsumedSound : Obligations.ResetIsConsumedSound := by
  intro c attached b
  refine ⟨fun b' hb' => ?_, rfl⟩
  rw [State.resetWith_ctx] at hb'
  cases hb'

/-! #### A `Consumed` context and the frame it handed off (R32) -/

/-- Only a HANDOFF makes a context `Consumed`: after another command, such a context is as before. -/
theorem ContextStep.eq_of_consumed {c : Config} {cap : Nat} {k k' : Context} (h : ContextStep c cap k k')
    (hst : k'.stage = .consumed) : k' = k := by
  cases h with
  | same => rfl
  | abortedByOther =>
    rcases k.abortOther_cases with ⟨-, heq⟩ | ⟨-, heq⟩
    · exact heq
    · rw [heq] at hst
      cases hst
  | started d ox oy w h _ hd hf => rw [Context.writeStart_eq] at hst; cases hst
  | imaged p _ hl hr hf => rw [Context.writeImage_eq] at hst; cases hst
  | blitted _ hf => rw [Context.writeBlit_eq] at hst; cases hst
  | ended d _ hm hf => rw [Context.writeEnd_eq] at hst; cases hst
  | cleared => cases hst
  | aborted e => cases hst
  | overflowed n e => cases hst

theorem Basic.consumedSound {q : Nat} {s t : State} (h : Basic q s t) (hs : s.Sound) (hcs : s.ConsumedSound) :
    t.ConsumedSound := by
  intro b hb
  rw [h.cfg]
  rcases h.effect with ⟨hlog, hctx⟩ | ⟨b', hst, hlog, hself, hother⟩
  · have heq := (hctx b).eq_of_consumed hb
    rw [heq] at hb ⊢
    rw [State.lastSent_congr hlog]
    exact hcs b hb
  · rw [State.lastSent_append hlog]
    rcases eq_or_eq_other b' b with rfl | rfl
    · obtain ⟨f, hf, hw, hdisp, -⟩ := (hs.context b).carries.wrote_closed hst
      rw [if_pos rfl, hself, hw.frameBytes]
      exact ⟨f, hf, rfl, hw.2, hdisp⟩
    · rw [if_neg (ne_other b')]
      rw [hother] at hb ⊢
      exact hcs _ hb

/-- Settles O51: each command keeps the tie, given that the state is sound, which each command keeps too. -/
theorem everyStepKeepsConsumedSound : Obligations.EveryStepKeepsConsumedSound := by
  intro s t hs hcs hstep
  refine (step_induct (P := fun u => u.Sound ∧ u.ConsumedSound) (fun q u v hq hb hu => ?_) (fun _ _ _ hb => hb.cfg)
    (fun u hu => ?_) (fun u on hu => ?_) hstep ⟨hs, hcs⟩).2
  · exact ⟨hb.sound hq hu.1, hb.consumedSound hu.1 hu.2⟩
  · refine ⟨hu.1.taken, fun b hb => ?_⟩
    rw [State.taken_ctx] at hb ⊢
    exact hu.2 b hb
  · refine ⟨hu.1.attach on, fun b hb => ?_⟩
    rw [State.attach_ctx] at hb ⊢
    exact hu.2 b hb

/-- Settles O47: the cursor is the length of the records written. -/
theorem cursorFollowsStage : Obligations.CursorFollowsStage := by
  intro s b hs hcs k
  have hcar : k.Carries s.cfg := (hs.context b).carries
  refine ⟨fun hst => (hcar.wrote_idle hst).1.2, fun hst => ?_, fun hst => ?_, fun hst => ?_, fun hst => ?_,
    fun hst => ?_⟩
  · obtain ⟨f, hf, hw, -⟩ := hcar.wrote_headerWritten hst
    exact ⟨f, hf, hw, hw.2.trans (f.upToStart_length s.cfg)⟩
  · obtain ⟨f, hf, hw, -⟩ := hcar.wrote_pixelsWritten hst
    exact ⟨f, hf, hw, hw.2.trans (f.upToImage_length s.cfg)⟩
  · obtain ⟨f, hf, hw, -⟩ := hcar.wrote_blitIssued hst
    exact ⟨f, hf, hw, hw.2.trans (f.upToBlit_length s.cfg)⟩
  · obtain ⟨f, hf, hw, -⟩ := hcar.wrote_closed hst
    exact ⟨f, hf, hw, hw.2.trans (f.bytes_length s.cfg)⟩
  · obtain ⟨f, hf, hsent, hcur, -⟩ := hcs b hst
    exact ⟨f, hf, hsent, hcur.trans (f.bytes_length s.cfg)⟩

end Sys2Proof.Machine
end

/-! ### Assembler lines (30_encoding.md R68) -/

section
namespace Sys2Proof.Asm

open Sys2Proof

/-! #### Numbers: reading the decimal digits of a number gives the number -/

theorem decDigit_digitChar (k : Nat) : decDigit (digitChar k) = some (k % 10) := by
  have h : ∀ d < 10, decDigit (Char.ofNat ('0'.toNat + d)) = some d := by decide
  exact h _ (Nat.mod_lt k (by decide))

/-- Reading goes on behind the digits of `n` as if `n` had been read. -/
theorem readDigits_decimalAux (fuel n : Nat) (acc : List Char) (hn : n < fuel) :
    readDigits decDigit 10 (decimalAux fuel n acc) 0 = readDigits decDigit 10 acc n := by
  induction fuel generalizing n acc with
  | zero => omega
  | succ fuel ih =>
    rw [decimalAux]
    split
    · simp [readDigits, decDigit_digitChar, Nat.mod_eq_of_lt ‹n < 10›]
    · rw [ih (n / 10) _ (by omega), readDigits, decDigit_digitChar]
      simp only
      congr 1
      omega

/-- The printed digits are decimal digits. -/
theorem decimalAux_digits (fuel n : Nat) (acc : List Char) (hacc : ∀ ch ∈ acc, (decDigit ch).isSome = true) :
    ∀ ch ∈ decimalAux fuel n acc, (decDigit ch).isSome = true := by
  induction fuel generalizing n acc with
  | zero => exact hacc
  | succ fuel ih =>
    have hcons : ∀ ch ∈ digitChar n :: acc, (decDigit ch).isSome = true := by
      simp only [List.mem_cons, forall_eq_or_imp]
      exact ⟨by rw [decDigit_digitChar]; rfl, hacc⟩
    rw [decimalAux]
    split
    · exact hcons
    · exact ih _ _ hcons

theorem decimal_digits (n : Nat) : ∀ ch ∈ decimal n, (decDigit ch).isSome = true :=
  decimalAux_digits (n + 1) n [] (by simp)

theorem decimalAux_ne_nil (fuel n : Nat) (acc : List Char) (h : acc ≠ [] ∨ 0 < fuel) : decimalAux fuel n acc ≠ [] := by
  induction fuel generalizing n acc with
  | zero => exact h.resolve_right (by omega)
  | succ fuel ih =>
    rw [decimalAux]
    split
    · exact List.cons_ne_nil _ _
    · exact ih _ _ (.inl (List.cons_ne_nil _ _))

theorem decimal_ne_nil (n : Nat) : decimal n ≠ [] :=
  decimalAux_ne_nil (n + 1) n [] (.inr (Nat.succ_pos n))

/-- What begins with no `0x` is read as decimal. -/
theorem readNumber_of_digits {cs : List Char} (hne : cs ≠ []) (hd : ∀ ch ∈ cs, (decDigit ch).isSome = true) :
    readNumber cs = readDigits decDigit 10 cs 0 := by
  have hx : (decDigit 'x').isSome = false := by decide
  unfold readNumber
  split
  · exact absurd rfl hne
  · rw [hd 'x' (by simp)] at hx
    cases hx
  · rw [hd 'x' (by simp)] at hx
    cases hx
  · rfl

theorem readNumber_decimal (n : Nat) : readNumber (decimal n) = some n := by
  rw [readNumber_of_digits (decimal_ne_nil n) (decimal_digits n)]
  exact readDigits_decimalAux (n + 1) n [] (Nat.lt_succ_self n)

/-! #### Cutting a printed line into its tokens -/

theorem atomChar_of_decDigit {ch : Char} (h : (decDigit ch).isSome = true) : atomChar ch = true := by
  unfold decDigit at h
  split at h
  · rename_i hd
    simp only [atomChar, hd, and_self, decide_true, Bool.true_or]
  · cases h

theorem atomToken_decimal (n : Nat) : atomToken (decimal n) = .ok (.num n) := by
  have hdigits := decimal_digits n
  have hread := readNumber_decimal n
  have hne := decimal_ne_nil n
  revert hdigits hread hne
  cases decimal n with
  | nil => exact fun _ _ hne => absurd rfl hne
  | cons ch cs =>
    intro hdigits hread _
    simp only [atomToken, hdigits ch List.mem_cons_self, if_true, hread]

theorem atomToken_name (m : Mn) : atomToken m.name = .ok (.word m.name) := by
  cases m <;> rfl

theorem atomChar_name (m : Mn) : ∀ ch ∈ m.name, atomChar ch = true := by
  have hall : m.name.all atomChar = true := by cases m <;> rfl
  exact List.all_eq_true.mp hall

/-- A run of letters and digits is gathered, last character first. -/
theorem lexFrom_atom (w rest acc : List Char) (hw : ∀ ch ∈ w, atomChar ch = true) :
    lexFrom (w ++ rest) acc = lexFrom rest (w.reverse ++ acc) := by
  induction w generalizing acc with
  | nil => rfl
  | cons ch w ih =>
    rw [List.cons_append, lexFrom, if_pos (hw ch List.mem_cons_self),
      ih _ fun c hc => hw c (List.mem_cons_of_mem _ hc), List.reverse_cons, List.append_assoc]
    rfl

/-- The characters do not go on with a run of letters and digits. -/
def Breaks (cs : List Char) : Prop :=
  ∀ ch ∈ cs.head?, atomChar ch = false

/-- Where a run ends, its token is put in front of those of the rest. -/
theorem lexFrom_of_breaks {cs : List Char} {ts : List Token} (hb : Breaks cs) (h : lexFrom cs [] = .ok ts)
    (acc : List Char) : lexFrom cs acc = flush acc ts := by
  cases cs with
  | nil => cases h; rfl
  | cons ch rest =>
    have hch : atomChar ch = false := hb ch rfl
    rw [lexFrom] at h ⊢
    rw [if_neg (by simp [hch])] at h ⊢
    split at h
    · cases h
      rw [if_pos ‹_›]
    · rw [if_neg ‹_›]
      split at h
      · rw [if_pos ‹_›]
        split at h
        · cases h
          rfl
        · cases h
      · rw [if_neg ‹_›]
        split at h
        · cases h
          rfl
        · cases h
        · cases h

/-- The printed tokens are read back as they are. -/
def Lexes (ts : List Token) : Prop :=
  lexFrom (ts.flatMap tokenChars) [] = .ok ts

/-- The printed tokens do not begin with a letter or a digit, so a number may stand before them. -/
def Separated (ts : List Token) : Prop :=
  Breaks (ts.flatMap tokenChars)

theorem lexes_nil : Lexes [] := rfl

theorem separated_nil : Separated [] := nofun

theorem lexFrom_space (rest : List Char) : lexFrom (' ' :: rest) [] = lexFrom rest [] := by
  have hspace : atomChar ' ' = false := by decide
  rw [lexFrom, if_neg (by simp [hspace]), if_neg (by decide), if_pos rfl]
  cases lexFrom rest [] <;> rfl

/-- A printed run of letters and digits, and the token that it makes. -/
theorem lexFrom_atom_token {w rest : List Char} {t : Token} {ts : List Token} (hw : ∀ ch ∈ w, atomChar ch = true)
    (hne : w ≠ []) (htok : atomToken w = .ok t) (hb : Breaks rest) (h : lexFrom rest [] = .ok ts) :
    lexFrom (w ++ rest) [] = .ok (t :: ts) := by
  rw [lexFrom_atom w rest [] hw, lexFrom_of_breaks hb h, List.append_nil]
  cases hrev : w.reverse with
  | nil => exact absurd (List.reverse_eq_nil_iff.mp hrev) hne
  | cons ch cs =>
    simp only [flush]
    rw [← hrev, List.reverse_reverse, htok]

theorem lexes_num {ts : List Token} (n : Nat) (hs : Separated ts) (h : Lexes ts) : Lexes (.num n :: ts) :=
  lexFrom_atom_token (fun ch hch => atomChar_of_decDigit (decimal_digits n ch hch)) (decimal_ne_nil n)
    (atomToken_decimal n) hs h

theorem lexes_name {ts : List Token} (m : Mn) (h : Lexes ts) : Lexes (.word m.name :: ts) := by
  have hline : (Token.word m.name :: ts).flatMap tokenChars = m.name ++ ' ' :: ts.flatMap tokenChars := by
    simp [tokenChars]
  rw [Lexes, hline]
  refine lexFrom_atom_token (atomChar_name m) (by cases m <;> exact nofun) (atomToken_name m) ?_ ?_
  · rintro ch ⟨⟩
    decide
  · rw [lexFrom_space]
    exact h

/-- A punctuation character is its token, behind which reading goes on. -/
theorem lexFrom_punctuation {ch : Char} {t : Token} {rest : List Char} {ts : List Token}
    (hch : atomChar ch = false) (hsemi : ch ≠ ';') (hspace : ch ≠ ' ') (hp : punctuation ch = some t)
    (h : lexFrom rest [] = .ok ts) : lexFrom (ch :: rest) [] = .ok (t :: ts) := by
  rw [lexFrom, if_neg (by simp [hch]), if_neg hsemi, if_neg hspace, hp, h]
  rfl

theorem lexes_comma {ts : List Token} (h : Lexes ts) : Lexes (.comma :: ts) :=
  lexFrom_punctuation (by decide) (by decide) (by decide) rfl ((lexFrom_space _).trans h)

theorem lexes_colon {ts : List Token} (h : Lexes ts) : Lexes (.colon :: ts) :=
  lexFrom_punctuation (by decide) (by decide) (by decide) rfl ((lexFrom_space _).trans h)

theorem lexes_lparen {ts : List Token} (h : Lexes ts) : Lexes (.lparen :: ts) :=
  lexFrom_punctuation (by decide) (by decide) (by decide) rfl h

theorem lexes_rparen {ts : List Token} (h : Lexes ts) : Lexes (.rparen :: ts) :=
  lexFrom_punctuation (by decide) (by decide) (by decide) rfl h

theorem lexes_lbrack {ts : List Token} (h : Lexes ts) : Lexes (.lbrack :: ts) :=
  lexFrom_punctuation (by decide) (by decide) (by decide) rfl h

theorem lexes_rbrack {ts : List Token} (h : Lexes ts) : Lexes (.rbrack :: ts) :=
  lexFrom_punctuation (by decide) (by decide) (by decide) rfl h

theorem separated_comma (ts : List Token) : Separated (.comma :: ts) := by
  rintro ch ⟨⟩
  decide

theorem separated_colon (ts : List Token) : Separated (.colon :: ts) := by
  rintro ch ⟨⟩
  decide

theorem separated_rparen (ts : List Token) : Separated (.rparen :: ts) := by
  rintro ch ⟨⟩
  decide

theorem separated_rbrack (ts : List Token) : Separated (.rbrack :: ts) := by
  rintro ch ⟨⟩
  decide

/-- A list of plain bytes, in front of tokens that are read back. -/
theorem lexes_byteTokens (p : List U8) {ts : List Token} (h : Lexes ts) : Lexes (byteTokens p ++ ts) := by
  induction p using byteTokens.induct with
  | case1 => exact lexes_rbrack h
  | case2 v => exact lexes_num _ (separated_rbrack ts) (lexes_rbrack h)
  | case3 v rest hne ih =>
    rw [byteTokens]
    · exact lexes_num _ (separated_comma _) (lexes_comma ih)
    · exact hne

/-- A list of 4-tuples, in front of tokens that are read back. -/
theorem lexes_tupleTokens (p : List U8) {ts : List Token} (h : Lexes ts) : Lexes (tupleTokens p ++ ts) := by
  induction p using tupleTokens.induct with
  | case1 r g bl a rest ih =>
    refine lexes_lparen (lexes_num _ (separated_comma _) (lexes_comma (lexes_num _ (separated_comma _) (lexes_comma
      (lexes_num _ (separated_comma _) (lexes_comma (lexes_num _ (separated_rparen _) (lexes_rparen ?_))))))))
    cases rest with
    | nil => exact lexes_rbrack h
    | cons v vs => exact lexes_comma ih
  | case2 p hp =>
    rw [tupleTokens]
    · exact lexes_rbrack h
    · exact hp

theorem lexes_operandTokens (o : Operand) {ts : List Token} (hs : Separated ts) (h : Lexes ts) :
    Lexes (operandTokens o ++ ts) := by
  cases o with
  | num n => exact lexes_num n hs h
  | input p =>
    rw [operandTokens]
    split
    · exact lexes_lbrack (lexes_tupleTokens p h)
    · exact lexes_lbrack (lexes_byteTokens p h)

theorem lexes_operandsTokens (os : List Operand) : Lexes (operandsTokens os) := by
  induction os using operandsTokens.induct with
  | case1 => exact lexes_nil
  | case2 o =>
    rw [operandsTokens, ← List.append_nil (operandTokens o)]
    exact lexes_operandTokens o separated_nil lexes_nil
  | case3 o os hne ih =>
    rw [operandsTokens]
    · exact lexes_operandTokens o (separated_comma _) (lexes_comma ih)
    · exact hne

theorem lexes_lineTokens (m : Mn) (q : Nat) (os : List Operand) : Lexes (lineTokens m q os) :=
  lexes_num q (separated_colon _) (lexes_colon (lexes_name m (lexes_operandsTokens os)))

/-! #### Reading the operands back -/

@[simp] theorem asU8_toNat (v : U8) : asU8 v.toNat = .ok v := by
  rw [asU8, if_pos v.isLt, BitVec.ofNat_toNat, BitVec.setWidth_eq]

@[simp] theorem asU16_toNat (v : U16) : asU16 v.toNat = .ok v := by
  rw [asU16, if_pos v.isLt, BitVec.ofNat_toNat, BitVec.setWidth_eq]

@[simp] theorem asBuf_bufNum (b : BufId) : asBuf (bufNum b) = .ok b := by
  cases b <;> rfl

theorem consByte_toNat (v : U8) (p : List U8) (ts : List Token) :
    consByte v.toNat (.ok (p, ts)) = .ok (v :: p, ts) := by
  simp only [consByte, asU8_toNat]

/-- A list of plain bytes is read back, from its first byte or from one after a comma (log 12). -/
theorem readList_byteTokens (p : List U8) (hp : p ≠ []) (ts : List Token) {place : ListAt}
    (hplace : place = .opened ∨ place = .nextByte) : readList (byteTokens p ++ ts) place = .ok (p, ts) := by
  induction p using byteTokens.induct generalizing place with
  | case1 => exact absurd rfl hp
  | case2 v =>
    rcases hplace with rfl | rfl <;> exact consByte_toNat v [] ts
  | case3 v rest hne ih =>
    have hrest := ih hne (.inr rfl)
    rw [byteTokens]
    · rcases hplace with rfl | rfl
      · rw [List.cons_append, List.cons_append, readList, readList, hrest, consByte_toNat]
      · rw [List.cons_append, List.cons_append, readList, readList, hrest, consByte_toNat]
    · exact hne

/-- One pixel is read back, from the first tuple or from one after a comma; `later` is what the rest gives. -/
theorem readList_pixel (r g bl a : U8) {ts later : List Token} {p : List U8} {place : ListAt}
    (hplace : place = .opened ∨ place = .nextTuple) (h : readList ts .tupled = .ok (p, later)) :
    readList (.lparen :: .num r.toNat :: .comma :: .num g.toNat :: .comma :: .num bl.toNat :: .comma ::
      .num a.toNat :: .rparen :: ts) place = .ok (r :: g :: bl :: a :: p, later) := by
  rcases hplace with rfl | rfl <;> simp [readList, h, consByte_toNat]

/-- A list of 4-tuples is read back. -/
theorem readList_tupleTokens (p : List U8) (hlen : p.length % 4 = 0) (hp : p ≠ []) (ts : List Token) {place : ListAt}
    (hplace : place = .opened ∨ place = .nextTuple) : readList (tupleTokens p ++ ts) place = .ok (p, ts) := by
  induction p using tupleTokens.induct generalizing place with
  | case1 r g bl a rest ih =>
    refine readList_pixel r g bl a hplace ?_
    cases rest with
    | nil => rfl
    | cons v vs => exact ih (by simp only [List.length_cons] at hlen ⊢; omega) (List.cons_ne_nil _ _) (.inr rfl)
  | case2 p hno =>
    match p, hp with
    | [_], _ => cases hlen
    | [_, _], _ => cases hlen
    | [_, _, _], _ => cases hlen
    | r :: g :: bl :: a :: rest, _ => exact absurd rfl (hno r g bl a rest)

theorem readOperand_operandTokens (inputs : List (List Char × List U8)) (o : Operand) (ts : List Token) :
    readOperand inputs (operandTokens o ++ ts) = .ok (o, ts) := by
  cases o with
  | num n => rfl
  | input p =>
    have hlist : readList ((if p.length % 4 = 0 then tupleTokens p else byteTokens p) ++ ts) .opened = .ok (p, ts) := by
      split
      · rename_i hlen
        by_cases hp : p = []
        · subst hp
          rfl
        · exact readList_tupleTokens p hlen hp ts (.inl rfl)
      · rename_i hlen
        exact readList_byteTokens p (by rintro rfl; exact hlen rfl) ts (.inl rfl)
    rw [operandTokens, List.cons_append, readOperand, hlist]

/-- Operands separated by commas are read back, given fuel for their number. -/
theorem readMore_operandsTokens (inputs : List (List Char × List U8)) (os : List Operand) (hos : os ≠ []) (fuel : Nat)
    (hf : os.length ≤ fuel) : readMore inputs fuel (operandsTokens os) = .ok os := by
  induction os using operandsTokens.induct generalizing fuel with
  | case1 => exact absurd rfl hos
  | case2 o =>
    obtain ⟨fuel, rfl⟩ : ∃ n, fuel = n + 1 := ⟨fuel - 1, by simp at hf; omega⟩
    have ho := readOperand_operandTokens inputs o []
    rw [List.append_nil] at ho
    rw [operandsTokens, readMore, ho]
  | case3 o os hne ih =>
    obtain ⟨fuel, rfl⟩ : ∃ n, fuel = n + 1 := ⟨fuel - 1, by simp at hf; omega⟩
    rw [operandsTokens, readMore, readOperand_operandTokens]
    · simp only [ih hne fuel (by simpa using hf)]
    · exact hne

/-- The printed operands have no fewer tokens than operands. -/
theorem length_le_operandsTokens (os : List Operand) : os.length ≤ (operandsTokens os).length := by
  have hone : ∀ o, 1 ≤ (operandTokens o).length := fun o => by cases o <;> simp [operandTokens]
  induction os using operandsTokens.induct with
  | case1 => exact Nat.le_refl 0
  | case2 o => exact hone o
  | case3 o os hne ih =>
    rw [operandsTokens]
    · simp only [List.length_append, List.length_cons]
      have := hone o
      omega
    · exact hne

theorem readOperands_operandsTokens (inputs : List (List Char × List U8)) (os : List Operand) :
    readOperands inputs (operandsTokens os) = .ok os := by
  by_cases hos : os = []
  · subst hos
    rfl
  · have hlen := length_le_operandsTokens os
    have hmore := readMore_operandsTokens inputs os hos _ hlen
    revert hlen hmore
    cases operandsTokens os with
    | nil => exact fun hlen => absurd (List.length_eq_zero_iff.mp (Nat.le_zero.mp hlen)) hos
    | cons t ts => exact fun _ hmore => hmore

/-! #### Reading a printed command back -/

theorem Mn.ofName_name (m : Mn) : Mn.ofName m.name = some m := by
  cases m <;> rfl

/-- A line that the printer writes is read as its mnemonic, requester and operands. -/
theorem readLine_lineTokens (inputs : List (List Char × List U8)) (m : Mn) (q : Nat) (os : List Operand) :
    readLine ((lineTokens m q os).flatMap tokenChars) inputs = command m q os := by
  have hlex : lex ((lineTokens m q os).flatMap tokenChars) = .ok (lineTokens m q os) := lexes_lineTokens m q os
  rw [readLine, hlex]
  simp only [lineTokens, readBody, Mn.ofName_name, readOperands_operandsTokens]

/-- Going on from an operand that was read. -/
@[simp] theorem bind_ok {α β : Type} (v : α) (f : α → Except DecodeError β) : (Except.ok v >>= f) = f v := rfl

@[simp] theorem pure_eq_ok {α : Type} (v : α) : (pure v : Except DecodeError α) = .ok v := rfl

/-- The operands of a command give the command back. -/
theorem command_parts {i : Instr} {m : Mn} {q : Nat} {os : List Operand} (h : parts i = some (m, q, os)) :
    command m q os = .ok i := by
  cases i with
  | acquire q => cases h; rfl
  | release q => cases h; rfl
  | clear q b => cases h; simp [command]
  | start q b d ox oy w hh => cases h; simp [command]
  | image q b p => cases h; simp [command]
  | blit q b => cases h; simp [command]
  | endCmd q b d => cases h; simp [command]
  | handoff q b => cases h; simp [command]
  | quant q r g bl a => cases h; simp [command]
  | frame q b d ox oy w hh p => cases h; simp [command]
  | send q v dL dR => cases h; simp [command]
  | send1 q p d ox oy w hh => cases h; simp [command]
  | _ => cases h

theorem parts_of_isCommand {i : Instr} (h : i.isCommand = true) : ∃ m q os, parts i = some (m, q, os) := by
  cases i with
  | startOfData d ox oy w hh => cases h
  | transmitPixels rl colors => cases h
  | blitTrigger => cases h
  | endOfData d => cases h
  | endOfDataPad d => cases h
  | repeatRun => cases h
  | skipRun => cases h
  | _ => exact ⟨_, _, _, rfl⟩

/-- Settles O6: the line that the printer writes of the command's parts is read as those parts. -/
theorem commandReadsAsPrinted : Obligations.CommandReadsAsPrinted := by
  intro c i hi
  obtain ⟨m, q, os, hparts⟩ := parts_of_isCommand hi
  have hprint : printLine i = some ((lineTokens m q os).flatMap tokenChars) := by
    rw [printLine, hparts]
    rfl
  refine ⟨_, by rw [encode, hprint], ?_⟩
  rw [decode, readLine_lineTokens, command_parts hparts]

/-! #### What a line can read as -/

/-- A reading that gives a command or an error. -/
def GivesCommand (r : Except DecodeError Instr) : Prop :=
  ∀ i, r = .ok i → i.isCommand = true

theorem givesCommand_ok {i : Instr} (hi : i.isCommand = true) : GivesCommand (.ok i) := by
  rintro _ ⟨⟩
  exact hi

theorem givesCommand_error (e : DecodeError) : GivesCommand (.error e) := nofun

theorem givesCommand_bind {α : Type} (r : Except DecodeError α) {f : α → Except DecodeError Instr}
    (hf : ∀ v, GivesCommand (f v)) : GivesCommand (r >>= f) := by
  cases r with
  | error e => exact givesCommand_error e
  | ok v => exact hf v

/-- Whatever its operands, a mnemonic gives no other instruction than its command. -/
theorem givesCommand_command (m : Mn) (q : Nat) (os : List Operand) : GivesCommand (command m q os) := by
  unfold command
  split
  case h_13 => exact givesCommand_error _
  all_goals
    repeat' refine givesCommand_bind _ fun _ => ?_
    exact givesCommand_ok rfl

theorem isCommand_of_readBody {inputs : List (List Char × List U8)} {q : Nat} {ts : List Token} {i : Instr}
    (h : readBody inputs q ts = .ok i) : i.isCommand = true := by
  unfold readBody at h
  split at h
  · split at h
    · exact givesCommand_command _ _ _ _ h
    · cases h
    · cases h
  · cases h

/-- A line reads as a command or not at all. -/
theorem isCommand_of_readLine {text : List Char} {inputs : List (List Char × List U8)} {i : Instr}
    (h : readLine text inputs = .ok i) : i.isCommand = true := by
  unfold readLine at h
  split at h
  · cases h
  · cases h
  · exact isCommand_of_readBody h
  · exact isCommand_of_readBody h

/-- Settles O7: bytes decode to well-formed records only, lines to commands only. -/
theorem reservedRunsNeverDecode : Obligations.ReservedRunsNeverDecode := by
  intro c bytes text inputs
  refine ⟨fun h => ?_, fun h => ?_, fun h => ?_, fun h => ?_⟩
  · exact absurd (Machine.decodedRecordEncodesBack c bytes _ h).2 Bool.false_ne_true
  · exact absurd (Machine.decodedRecordEncodesBack c bytes _ h).2 Bool.false_ne_true
  · exact absurd (isCommand_of_readLine h) Bool.false_ne_true
  · exact absurd (isCommand_of_readLine h) Bool.false_ne_true

end Sys2Proof.Asm
end

/-! ### What a command answers, command by command -/

section
namespace Sys2Proof.Machine

open Sys2Proof.Claims

theorem exec_frame (q : Nat) (b : BufId) (d ox oy : U8) (w h : U16) (p : List U8) (s : State) :
    exec (.frame q b d ox oy w h p) s = execFrame q b d ox oy w h p s :=
  rfl

theorem exec_send (q : Nat) (v : List U8) (dL dR : U8) (s : State) :
    exec (.send q v dL dR) s = execSend q v dL dR s :=
  rfl

theorem exec_send1 (q : Nat) (p : List U8) (d ox oy : U8) (w h : U16) (s : State) :
    exec (.send1 q p d ox oy w h) s = execSend1 q p d ox oy w h s :=
  rfl

/-! #### The step, and the instructions that stop -/

theorem step_presented {s : State} {t : Transaction} {rest : List HostInput} {i : Instr}
    (h : s.pending = .present t :: rest) (hi : presented s.cfg t = .ok i) :
    step s = exec i { s with pending := rest } := by
  have htaken : s.taken = { s with pending := rest } := by rw [State.taken, h]; rfl
  simp only [step, h, hi, htaken]

theorem step_not_presented {s : State} {t : Transaction} {rest : List HostInput} {r : Refusal}
    (h : s.pending = .present t :: rest) (hr : presented s.cfg t = .error r) : step s = .refused r := by
  simp only [step, h, hr]

theorem step_attach {s : State} {on : Bool} {rest : List HostInput} (h : s.pending = .attach on :: rest) :
    step s = .next { s with transportAttached := on, pending := rest } := by
  have htaken : s.taken = { s with pending := rest } := by rw [State.taken, h]; rfl
  simp only [step, h, htaken, State.attach]

theorem step_idle {s : State} (h : s.pending = []) : step s = .next s := by
  simp only [step, h]

/-- Settles O2, by what `presented` answers for the first pending input. -/
theorem stepRunsDecodedInstruction : Obligations.StepRunsDecodedInstruction := by
  intro s
  refine ⟨fun t rest i hp hd hw => step_presented hp ?_, fun t rest i hp hd hw => step_not_presented hp ?_,
    fun t rest e hp hd => step_not_presented hp ?_, fun on rest hp => step_attach hp, step_idle⟩
  · simp only [presented, hd, hw, if_true]
  · simp only [presented, hd, hw, Bool.false_eq_true, if_false]
  · simp only [presented, hd]

/-- Settles O39: each record has a meaning of its own that stops (log 9). -/
theorem wireRecordsStop : Obligations.WireRecordsStop := by
  intro s d ox oy w h rl colors
  exact ⟨rfl, rfl, rfl, rfl, rfl⟩

/-- Settles O40: each run has a meaning of its own that stops (log 10). -/
theorem reservedRunsStop : Obligations.ReservedRunsStop := by
  intro s
  exact ⟨rfl, rfl⟩

/-! #### What session control and HANDOFF can answer -/

section
variable {q : Nat} {b : BufId} {s t : State}

theorem execAcquire_eq_next (h : execAcquire q s = .next t) :
    (t = { s with reply := some ⟨q, .dropped⟩ } ∧ (s.transportAttached = false ∨ s.busy = true)) ∨
      (t = { s with busy := true, owner := some q, handedOff := [], reply := some ⟨q, .granted⟩ } ∧
        s.transportAttached = true ∧ s.busy = false) := by
  rcases Bool.eq_false_or_eq_true s.transportAttached with ha | ha
  · rcases Bool.eq_false_or_eq_true s.busy with hb | hb
    · rw [execAcquire_busy ha hb] at h; cases h; exact .inl ⟨rfl, .inr hb⟩
    · rw [execAcquire_free ha hb] at h; cases h; exact .inr ⟨rfl, ha, hb⟩
  · rw [execAcquire_unattached ha] at h; cases h; exact .inl ⟨rfl, .inl ha⟩

/-- A refusal of a command of `q` (60_exceptions.md R123). -/
def RefusedNext (q : Nat) (s t : State) : Prop :=
  ∃ r, t = { s with refused := true, reply := some ⟨q, .refused r⟩ }

/-- Outside its session a command is refused; inside it, the rest of the command ran. -/
theorem withSession_eq_next {rest : Outcome} (h : withSession q s rest = .next t) :
    (s.holdsSession q = false ∧ RefusedNext q s t) ∨ (s.holdsSession q = true ∧ rest = .next t) := by
  cases hq : s.holdsSession q with
  | false => rw [withSession_neg hq] at h; cases h; exact .inl ⟨rfl, _, rfl⟩
  | true => rw [withSession_pos hq] at h; exact .inr ⟨rfl, h⟩

theorem execRelease_eq_next (h : execRelease q s = .next t) :
    RefusedNext q s t ∨
      (s.holdsSession q = true ∧ s.anyMidFrame = false ∧
        t = { s with busy := false, owner := none, reply := some ⟨q, .ok⟩ }) := by
  rcases withSession_eq_next h with ⟨-, href⟩ | ⟨hq, h⟩
  · exact .inl href
  · split at h
    · cases h; exact .inl ⟨_, rfl⟩
    · cases h; exact .inr ⟨hq, Bool.not_eq_true _ ▸ ‹_›, rfl⟩

theorem execClear_eq_next (h : execClear q b s = .next t) :
    RefusedNext q s t ∨
      (s.holdsSession q = true ∧ (s.ctx b).stage.midFrame = false ∧
        t = { s.setCtx b Context.reset with reply := some ⟨q, .ok⟩ }) := by
  rcases withSession_eq_next h with ⟨-, href⟩ | ⟨hq, h⟩
  · exact .inl href
  · split at h
    · cases h; exact .inl ⟨_, rfl⟩
    · cases h; exact .inr ⟨hq, Bool.not_eq_true _ ▸ ‹_›, rfl⟩

/-- The state after a HANDOFF that succeeds (42_session_control.md R105). -/
def State.handedOffNext (s : State) (q : Nat) (b : BufId) : State :=
  { s.setCtx b (s.ctx b).consume with
    xferLog := s.xferLog ++ [⟨b, (s.ctx b).frameBytes s.freeCount⟩]
    handedOff := s.handedOff ++ [b]
    freeCount := s.freeCount + 1
    reply := some ⟨q, .ok⟩ }

@[simp] theorem State.handedOffNext_ctx (s : State) (q : Nat) (b : BufId) :
    (s.handedOffNext q b).ctx b = (s.ctx b).consume := by
  cases b <;> rfl

@[simp] theorem State.handedOffNext_ctx_other (s : State) (q : Nat) (b : BufId) :
    (s.handedOffNext q b).ctx (other b) = s.ctx (other b) := by
  cases b <;> rfl

theorem execHandoff_eq_next (h : execHandoff q b s = .next t) :
    (s.holdsSession q = false ∧ RefusedNext q s t) ∨
      (s.holdsSession q = true ∧
        t = { s.abort b .sequenceError .handoff with reply := some ⟨q, .err .sequenceError⟩ }) ∨
      (s.holdsSession q = true ∧ (s.ctx b).stage = .closed ∧ b ∉ s.handedOff ∧ t = s.handedOffNext q b) := by
  rcases withSession_eq_next h with href | ⟨hq, h⟩
  · exact .inl href
  · split at h
    · cases h; exact .inr (.inl ⟨hq, rfl⟩)
    · rename_i hchecks
      rw [not_or, not_not] at hchecks
      split at h
      · cases h
      · cases h; exact .inr (.inr ⟨hq, hchecks.1, hchecks.2, rfl⟩)

end

theorem execHandoff_sequenceError {q : Nat} {b : BufId} {s : State} (hq : s.holdsSession q = true)
    (h : (s.ctx b).stage ≠ .closed ∨ b ∈ s.handedOff) :
    execHandoff q b s = raise q b .sequenceError .handoff s := by
  rw [execHandoff, withSession_pos hq, if_pos h]

/-- The bytes that HANDOFF reads: as many as the cursor says, each with its value where it has one. -/
theorem Context.frameBytes_getElem? (k : Context) (n : Nat) {a : Nat} {v : U8} (ha : a < k.cursor)
    (hv : k.tb.read a = some v) : (k.frameBytes n)[a]? = some v := by
  simp [Context.frameBytes, Context.byteAt, List.getElem?_range ha, hv]

theorem Context.frameBytes_length (k : Context) (n : Nat) : (k.frameBytes n).length = k.cursor := by
  simp [Context.frameBytes]

/-- Settles O22, one check of HANDOFF after the other (R105, log 20). -/
theorem handoffSendsTheFrame : Obligations.HandoffSendsTheFrame := by
  intro s q b i
  have hi : exec i s = execHandoff q b s := exec_handoff q b s
  refine ⟨refuses_of_withSession hi, fun hq h => aborts_of_raise (hi.trans (execHandoff_sequenceError hq h)),
    fun hq hst hn hc => ⟨s.handedOffNext q b, hi.trans (execHandoff_ok hq hst hn hc), rfl, ?_⟩⟩
  beta_reduce
  rw [State.handedOffNext_ctx, State.handedOffNext_ctx_other]
  refine ⟨⟨_, rfl, Context.frameBytes_length _ _, fun a v ha hv => Context.frameBytes_getElem? _ _ ha hv⟩, rfl, rfl,
    rfl, rfl, Memory.read_nil, rfl, ?_⟩
  simp [State.handedOffNext]

/-- Settles O23: past the session and stage checks, the bound of the read fails (log 15). -/
theorem handoffOutsideBufferStops : Obligations.HandoffOutsideBufferStops := by
  intro s q b hq hst hn hc
  rw [exec_handoff, execHandoff, withSession_pos hq, if_neg (by simp [hst, hn]), if_pos hc]

/-- Settles O32: after an abort nobody holds the session and no context is mid-frame (60_exceptions.md R126). -/
theorem abortIsRecoverable : Obligations.AbortIsRecoverable := by
  intro s b b' e cmd q ha
  have hacq := execAcquire_free (q := q) ((State.abort_transportAttached s b e cmd).trans ha) (s.abort_busy b e cmd)
  refine ⟨_, _, (exec_acquire q _).trans hacq, rfl, (exec_clear q b' _).trans (execClear_ok ?_ ?_), rfl, ?_⟩
  · simp [State.holdsSession]
  · rw [State.ctx_mk]
    exact s.abort_midFrame b e cmd b'
  · rw [State.ctx_reply, State.setCtx_ctx]
    exact ⟨rfl, rfl, rfl⟩

/-! #### What the encoder commands can answer -/

/-- What an encoder command of `q` on context `b`, or several in a row, can answer: refused outside the session; an
error raised when the context was some `R`; or `OK` with the context some `W`. Nothing else changed. -/
inductive Encoded (q : Nat) (b : BufId) (R W : Context → Prop) (s : State) : State → Prop
  | refused (r : RefuseReason) (hq : s.holdsSession q = false) :
      Encoded q b R W s { s with refused := true, reply := some ⟨q, .refused r⟩ }
  | raised (k : Context) (e : ErrorKind) (cmd : CommandName) (hq : s.holdsSession q = true) (hk : R k) :
      Encoded q b R W s { (s.setCtx b k).abort b e cmd with reply := some ⟨q, .err e⟩ }
  | wrote (k : Context) (hq : s.holdsSession q = true) (hk : W k) :
      Encoded q b R W s { s.setCtx b k with reply := some ⟨q, .ok⟩ }

theorem Encoded.mono {q : Nat} {b : BufId} {R R' W W' : Context → Prop} {s t : State} (h : Encoded q b R W s t)
    (hR : ∀ k, R k → R' k) (hW : ∀ k, W k → W' k) : Encoded q b R' W' s t := by
  cases h with
  | refused r hq => exact .refused r hq
  | raised k e cmd hq hk => exact .raised k e cmd hq (hR k hk)
  | wrote k hq hk => exact .wrote k hq (hW k hk)

section
variable {q : Nat} {b : BufId} {s t : State}

/-- An error raised in the state as it is. -/
theorem encoded_raised {W : Context → Prop} (e : ErrorKind) (cmd : CommandName) (hq : s.holdsSession q = true) :
    Encoded q b (· = s.ctx b) W s { s.abort b e cmd with reply := some ⟨q, .err e⟩ } := by
  have h := Encoded.raised (q := q) (b := b) (R := (· = s.ctx b)) (W := W) (s := s) (s.ctx b) e cmd hq rfl
  rwa [State.setCtx_self] at h

/-- The context that START leaves of `k` (41_frame_encoder.md R84), with the checks it passed. -/
def Context.Started (k : Context) (c : Config) (cap : Nat) (d ox oy : U8) (w h : U16) (k' : Context) : Prop :=
  k.stage = .idle ∧ legalSelector d = true ∧ k.cursor + 16 ≤ cap ∧ k' = k.writeStart c d ox oy w h

/-- The context that IMAGE leaves of `k` (41_frame_encoder.md R87), with the checks it passed. -/
def Context.Imaged (k : Context) (c : Config) (cap : Nat) (p : List U8) (k' : Context) : Prop :=
  k.stage = .headerWritten ∧ p.length % 4 = 0 ∧ runLength c p ≤ 0xFFFF ∧ k.cursor + (4 + 2 * pixelCount p) ≤ cap ∧
    k' = k.writeImage c p

/-- The context that BLIT leaves of `k` (41_frame_encoder.md R90), with the checks it passed. -/
def Context.Blitted (k : Context) (c : Config) (cap : Nat) (k' : Context) : Prop :=
  k.stage = .pixelsWritten ∧ k.cursor + 4 ≤ cap ∧ k' = k.writeBlit c

/-- The context that END leaves of `k` (41_frame_encoder.md R93), with the checks it passed. -/
def Context.Ended (k : Context) (c : Config) (cap : Nat) (d : U8) (k' : Context) : Prop :=
  k.stage = .blitIssued ∧ legalSelector d = true ∧ k.disp = some d ∧ k.cursor + (3 + c.padLen) ≤ cap ∧
    k' = k.writeEnd c d

theorem execStart_encoded {d ox oy : U8} {w h : U16} (hx : execStart q b d ox oy w h s = .next t) :
    Encoded q b (· = s.ctx b) ((s.ctx b).Started s.cfg (s.cfg.capacity b) d ox oy w h) s t := by
  rcases withSession_eq_next hx with ⟨hq, r, rfl⟩ | ⟨hq, hx⟩
  · exact .refused r hq
  · split at hx
    · cases hx; exact encoded_raised _ _ hq
    · split at hx
      · cases hx; exact encoded_raised _ _ hq
      · split at hx
        · cases hx; exact encoded_raised _ _ hq
        · cases hx
          exact .wrote _ hq ⟨by simp_all, by simp_all, (s.fits_iff b _).mp (by simp_all), rfl⟩

theorem execImage_encoded {p : List U8} (hx : execImage q b p s = .next t) :
    Encoded q b (· = s.ctx b) ((s.ctx b).Imaged s.cfg (s.cfg.capacity b) p) s t := by
  rcases withSession_eq_next hx with ⟨hq, r, rfl⟩ | ⟨hq, hx⟩
  · exact .refused r hq
  · split at hx
    · cases hx; exact encoded_raised _ _ hq
    · split at hx
      · cases hx; exact encoded_raised _ _ hq
      · split at hx
        · cases hx; exact encoded_raised _ _ hq
        · split at hx
          · cases hx; exact encoded_raised _ _ hq
          · cases hx
            exact .wrote _ hq ⟨by simp_all, by omega, by omega, (s.fits_iff b _).mp (by simp_all), rfl⟩

theorem execBlit_encoded (hx : execBlit q b s = .next t) :
    Encoded q b (· = s.ctx b) ((s.ctx b).Blitted s.cfg (s.cfg.capacity b)) s t := by
  rcases withSession_eq_next hx with ⟨hq, r, rfl⟩ | ⟨hq, hx⟩
  · exact .refused r hq
  · split at hx
    · cases hx; exact encoded_raised _ _ hq
    · split at hx
      · cases hx; exact encoded_raised _ _ hq
      · cases hx
        exact .wrote _ hq ⟨by simp_all, (s.fits_iff b _).mp (by simp_all), rfl⟩

theorem execEnd_encoded {d : U8} (hx : execEnd q b d s = .next t) :
    Encoded q b (· = s.ctx b) ((s.ctx b).Ended s.cfg (s.cfg.capacity b) d) s t := by
  rcases withSession_eq_next hx with ⟨hq, r, rfl⟩ | ⟨hq, hx⟩
  · exact .refused r hq
  · split at hx
    · cases hx; exact encoded_raised _ _ hq
    · split at hx
      · cases hx; exact encoded_raised _ _ hq
      · split at hx
        · cases hx; exact encoded_raised _ _ hq
        · cases hx
          exact .wrote _ hq ⟨by simp_all, by simp_all, by simp_all, (s.fits_iff b _).mp (by simp_all), rfl⟩

/-! #### FRAME: its four commands in a row (41_frame_encoder.md R96) -/

/-- The state with context `b` replaced and `OK` returned to `q`. -/
def State.wroteCtx (s : State) (q : Nat) (b : BufId) (k : Context) : State :=
  { s.setCtx b k with reply := some ⟨q, .ok⟩ }

@[simp] theorem State.wroteCtx_ctx (s : State) (q : Nat) (b : BufId) (k : Context) : (s.wroteCtx q b k).ctx b = k := by
  cases b <;> rfl

@[simp] theorem State.wroteCtx_cfg (s : State) (q : Nat) (b : BufId) (k : Context) :
    (s.wroteCtx q b k).cfg = s.cfg := by
  cases b <;> rfl

@[simp] theorem State.wroteCtx_holdsSession (s : State) (q : Nat) (b : BufId) (k : Context) (q' : Nat) :
    (s.wroteCtx q b k).holdsSession q' = s.holdsSession q' := by
  cases b <;> rfl

@[simp] theorem State.wroteCtx_lastResult (s : State) (q : Nat) (b : BufId) (k : Context) :
    (s.wroteCtx q b k).lastResult = some .ok := by
  cases b <;> rfl

/-- An abort neither reads nor writes the reply. -/
theorem State.abort_reply (s : State) (y : Option Reply) (b : BufId) (e : ErrorKind) (cmd : CommandName) :
    ({ s with reply := y } : State).abort b e cmd = { s.abort b e cmd with reply := y } := by
  cases b <;> cases e <;> rfl

/-- Later commands on a context overwrite what the earlier ones left of it. -/
theorem Encoded.after_wrote {R W : Context → Prop} {k : Context} (hq : s.holdsSession q = true)
    (h : Encoded q b R W (s.wroteCtx q b k) t) : Encoded q b R W s t := by
  cases h with
  | refused r hq' =>
    rw [State.wroteCtx_holdsSession, hq] at hq'
    cases hq'
  | raised k' e cmd hq' hk =>
    have hset : (s.wroteCtx q b k).setCtx b k' = { s.setCtx b k' with reply := some ⟨q, .ok⟩ } := by
      cases b <;> rfl
    rw [hset, State.abort_reply]
    exact .raised k' e cmd hq hk
  | wrote k' hq' hk =>
    have h := Encoded.wrote (R := R) k' hq hk (b := b)
    cases b <;> exact h

/-- One more command in a sequence that stops at the first result other than `OK`. -/
theorem encoded_ifOk {R W R' W' : Context → Prop} {o : Outcome} {f : State → Outcome}
    (ho : ∀ u, o = .next u → Encoded q b R W s u) (hR : ∀ k, R k → R' k)
    (hf : ∀ k u, s.holdsSession q = true → W k → f (s.wroteCtx q b k) = .next u →
      Encoded q b R' W' (s.wroteCtx q b k) u)
    (h : ifOk o f = .next t) : Encoded q b R' W' s t := by
  obtain ⟨u, hu, hcont⟩ := ifOk_eq_next h
  cases ho u hu with
  | refused r hq =>
    rcases hcont with ⟨hok, -⟩ | ⟨-, rfl⟩
    · cases hok
    · exact .refused r hq
  | raised k e cmd hq hk =>
    rcases hcont with ⟨hok, -⟩ | ⟨-, rfl⟩
    · cases hok
    · exact .raised k e cmd hq (hR k hk)
  | wrote k hq hk =>
    rcases hcont with ⟨-, hnext⟩ | ⟨hok, -⟩
    · exact (hf k t hq hk hnext).after_wrote hq
    · exact absurd rfl hok

/-- The context that a whole FRAME leaves of `k`, with the checks it passed. -/
def Context.Framed (k : Context) (c : Config) (cap : Nat) (f : FrameArgs) (k' : Context) : Prop :=
  k.stage = .idle ∧ f.legal c ∧ k.cursor + frameLength c (pixelCount f.p) ≤ cap ∧
    k' = { k.putBytes (f.bytes c) with stage := .closed, disp := some f.d }

/-- The four commands in a row write the four records in a row. -/
theorem framed_of_commands {c : Config} {cap : Nat} {f : FrameArgs} {k k1 k2 k3 k4 : Context}
    (h1 : k.Started c cap f.d f.ox f.oy f.w f.h k1) (h2 : k1.Imaged c cap f.p k2) (h3 : k2.Blitted c cap k3)
    (h4 : k3.Ended c cap f.d k4) : k.Framed c cap f k4 := by
  obtain ⟨hst, hd, -, rfl⟩ := h1
  obtain ⟨-, hl, hr, -, rfl⟩ := h2
  obtain ⟨-, -, rfl⟩ := h3
  obtain ⟨-, -, -, hfits, rfl⟩ := h4
  refine ⟨hst, ⟨hd, hl, hr⟩, ?_, ?_⟩
  · simp only [Context.writeStart_eq, Context.writeImage_eq, Context.writeBlit_eq, Context.putBytes_cursor,
      startRecord_length, imageRecord_length, blitRecord_length] at hfits
    rw [frameLength]
    omega
  · simp only [Context.writeStart_eq, Context.writeImage_eq, Context.writeBlit_eq, Context.writeEnd_eq,
      FrameArgs.bytes_eq, ← Context.putBytes_putBytes]
    rfl

theorem execFrame_encoded {f : FrameArgs} (h : execFrame q b f.d f.ox f.oy f.w f.h f.p s = .next t) :
    Encoded q b (fun k => k.err = (s.ctx b).err) ((s.ctx b).Framed s.cfg (s.cfg.capacity b) f) s t := by
  refine encoded_ifOk (fun u => execStart_encoded) (fun k hk => by rw [hk]) (fun k1 u1 hq hk1 h1 => ?_) h
  have herr1 : k1.err = (s.ctx b).err := by rw [hk1.2.2.2, Context.writeStart_eq]; rfl
  refine encoded_ifOk (fun u => execImage_encoded) (fun k hk => ?_) (fun k2 u2 hq2 hk2 h2 => ?_) h1
  · rw [hk, State.wroteCtx_ctx, herr1]
  rw [State.wroteCtx_ctx, State.wroteCtx_cfg] at hk2
  have herr2 : k2.err = (s.ctx b).err := by rw [hk2.2.2.2.2, Context.writeImage_eq]; exact herr1
  refine encoded_ifOk (fun u => execBlit_encoded) (fun k hk => ?_) (fun k3 u3 hq3 hk3 h3 => ?_) h2
  · rw [hk, State.wroteCtx_ctx, herr2]
  rw [State.wroteCtx_ctx, State.wroteCtx_cfg, State.wroteCtx_cfg] at hk3
  have herr3 : k3.err = (s.ctx b).err := by rw [hk3.2.2, Context.writeBlit_eq]; exact herr2
  refine (execEnd_encoded h3).mono (fun k hk => ?_) (fun k4 hk4 => ?_)
  · rw [hk, State.wroteCtx_ctx, herr3]
  · rw [State.wroteCtx_ctx, State.wroteCtx_cfg, State.wroteCtx_cfg, State.wroteCtx_cfg] at hk4
    exact framed_of_commands hk1 hk2 hk3 hk4

end

end Sys2Proof.Machine
end

/-! ### What commands keep (30_encoding.md R74, 41_frame_encoder.md R95 to R99) -/

section
namespace Sys2Proof.Machine

open Sys2Proof.Claims

/-! #### What an encoder command leaves alone -/

section
variable {q : Nat} {b : BufId} {R W : Context → Prop} {s t : State}

/-- An encoder command makes no transport write and hands nothing off. -/
theorem Encoded.sent (h : Encoded q b R W s t) : t.xferLog = s.xferLog ∧ t.handedOff = s.handedOff := by
  cases h <;> simp

/-- An encoder command keeps the session, or ends it with an error. -/
theorem Encoded.session (h : Encoded q b R W s t) :
    (t.busy = s.busy ∧ t.owner = s.owner) ∨
      (s.holdsSession q = true ∧ t.busy = false ∧ t.owner = none ∧ ∃ e, t.lastResult = some (.err e)) := by
  cases h with
  | refused r hq => exact .inl ⟨rfl, rfl⟩
  | raised k e cmd hq hk => exact .inr ⟨hq, rfl, rfl, e, rfl⟩
  | wrote k hq hk => exact .inl ⟨by simp, by simp⟩

/-- An error of a command on context `b`, and the other context (60_exceptions.md R121). -/
theorem abort_ctx_other_cases (s : State) (b : BufId) (e : ErrorKind) (cmd : CommandName) :
    (s.abort b e cmd).ctx (other b) = s.ctx (other b) ∨
      ((s.ctx (other b)).stage.inEncode = true ∧
        (s.abort b e cmd).ctx (other b) = { s.ctx (other b) with stage := .aborted }) := by
  rw [State.abort_ctx_other]
  rcases (s.ctx (other b)).abortOther_cases with ⟨-, heq⟩ | h
  · exact .inl heq
  · exact .inr h

/-- An encoder command leaves the other context alone, but for the abort of an error. -/
theorem Encoded.ctx_other (h : Encoded q b R W s t) :
    t.ctx (other b) = s.ctx (other b) ∨
      ((∃ e, t.lastResult = some (.err e)) ∧ (s.ctx (other b)).stage.inEncode = true ∧
        t.ctx (other b) = { s.ctx (other b) with stage := .aborted }) := by
  cases h with
  | refused r hq => exact .inl (State.ctx_mk ..)
  | wrote k hq hk =>
    refine .inl ?_
    simp only [State.ctx_reply, State.setCtx_ctx_other]
  | raised k e cmd hq hk =>
    have hcases := abort_ctx_other_cases (s.setCtx b k) b e cmd
    rw [State.setCtx_ctx_other] at hcases
    simp only [State.ctx_reply]
    exact hcases.imp_right fun h => ⟨⟨e, rfl⟩, h⟩

/-- Where an encoder command changes a stage: in the context that it wrote, or by an error. -/
theorem Encoded.stage_change (h : Encoded q b R W s t) {b' : BufId} (hne : (t.ctx b').stage ≠ (s.ctx b').stage) :
    (b' = b ∧ W (t.ctx b)) ∨
      ((t.ctx b').stage = .aborted ∧ (∃ e, t.lastResult = some (.err e)) ∧
        (b = b' ∨ (b = other b' ∧ (s.ctx b').stage.inEncode = true))) := by
  rcases eq_or_eq_other b b' with rfl | rfl
  · cases h with
    | refused r hq => exact absurd (congrArg Context.stage (State.ctx_mk s b' ..)) hne
    | wrote k hq hk =>
      exact .inl ⟨rfl, by simpa only [State.ctx_reply, State.setCtx_ctx] using hk⟩
    | raised k e cmd hq hk =>
      refine .inr ⟨?_, ⟨e, rfl⟩, .inl rfl⟩
      simp only [State.ctx_reply, State.abort_ctx, Context.abortSelf_stage]
  · rcases h.ctx_other with heq | ⟨herr, hin, heq⟩
    · exact absurd (congrArg Context.stage heq) hne
    · exact .inr ⟨congrArg Context.stage heq, herr, .inr ⟨(other_other b).symm, hin⟩⟩

end

theorem refusedNext_ctx {q : Nat} {s t : State} (h : RefusedNext q s t) (b : BufId) : t.ctx b = s.ctx b := by
  obtain ⟨r, rfl⟩ := h
  exact State.ctx_mk ..

/-! #### R74: a command on one context and the other context -/

theorem execClear_ctx_other {q : Nat} {b : BufId} {s t : State} (h : execClear q b s = .next t) :
    t.ctx (other b) = s.ctx (other b) := by
  rcases execClear_eq_next h with href | ⟨-, -, rfl⟩
  · exact refusedNext_ctx href _
  · rw [State.ctx_reply, State.setCtx_ctx_other]

/-- HANDOFF leaves the other context alone, but for the abort of its error. -/
theorem execHandoff_ctx_other {q : Nat} {b : BufId} {s t : State} (h : execHandoff q b s = .next t) :
    t.ctx (other b) = s.ctx (other b) ∨
      ((∃ e, t.lastResult = some (.err e)) ∧ (s.ctx (other b)).stage.inEncode = true ∧
        t.ctx (other b) = { s.ctx (other b) with stage := .aborted }) := by
  rcases execHandoff_eq_next h with ⟨-, href⟩ | ⟨-, rfl⟩ | ⟨-, -, -, rfl⟩
  · exact .inl (refusedNext_ctx href _)
  · simp only [State.ctx_reply]
    exact (abort_ctx_other_cases s b _ _).imp_right fun h => ⟨⟨_, rfl⟩, h⟩
  · exact .inl (State.handedOffNext_ctx_other s q b)

/-- Settles O34, command by command. -/
theorem otherContextIsIndependent : Obligations.OtherContextIsIndependent := by
  intro s t i b hi h
  cases i with
  | clear q b => cases hi; exact .inl (execClear_ctx_other h)
  | start q b d ox oy w hh => cases hi; exact (execStart_encoded h).ctx_other
  | image q b p => cases hi; exact (execImage_encoded h).ctx_other
  | blit q b => cases hi; exact (execBlit_encoded h).ctx_other
  | endCmd q b d => cases hi; exact (execEnd_encoded h).ctx_other
  | handoff q b => cases hi; exact execHandoff_ctx_other h
  | frame q b d ox oy w hh p => cases hi; exact (execFrame_encoded (f := ⟨d, ox, oy, w, hh, p⟩) h).ctx_other
  | _ => cases hi

/-! #### R98: the state machine -/

/-- A command that changes no context. -/
theorem ctx_of_no_context {i : Instr} {s t : State} (hp : isPseudo i = false) (hn : namedContext i = none)
    (h : exec i s = .next t) (b : BufId) : t.ctx b = s.ctx b := by
  cases i with
  | acquire q =>
    rcases execAcquire_eq_next h with ⟨rfl, -⟩ | ⟨rfl, -⟩
    · exact State.ctx_mk ..
    · exact State.ctx_mk ..
  | release q =>
    rcases execRelease_eq_next h with href | ⟨-, -, rfl⟩
    · exact refusedNext_ctx href b
    · exact State.ctx_mk ..
  | quant q r g bl a => cases h; exact State.ctx_mk ..
  | send q v dL dR => cases hp
  | send1 q p d ox oy w hh => cases hp
  | startOfData d ox oy w hh => cases h
  | transmitPixels rl colors => cases h
  | blitTrigger => cases h
  | endOfData d => cases h
  | endOfDataPad d => cases h
  | repeatRun => cases h
  | skipRun => cases h
  | _ => cases hn

/-- Settles O35, command by command; the error case is the same for each. -/
theorem stagesFollowTheTable : Obligations.StagesFollowTheTable := by
  intro s t i b hp h hne x y
  have habort : ∀ {b0 : BufId}, namedContext i = some b0 →
      (y = .aborted ∧ (∃ e, t.lastResult = some (.err e)) ∧ (b0 = b ∨ (b0 = other b ∧ x.inEncode = true))) →
      (y = .aborted ∧ (∃ e, t.lastResult = some (.err e)) ∧
        (namedContext i = some b ∨ (namedContext i = some (other b) ∧ x.inEncode = true))) := by
    rintro b0 hi ⟨hy, herr, rfl | ⟨rfl, hin⟩⟩
    · exact ⟨hy, herr, .inl hi⟩
    · exact ⟨hy, herr, .inr ⟨hi, hin⟩⟩
  cases i with
  | start q b0 d ox oy w hh =>
    rcases (execStart_encoded h).stage_change hne with ⟨rfl, hst, -, -, hk⟩ | herr
    · refine .inl ⟨hst, ?_, _, _, _, _, _, _, rfl⟩
      rw [show y = _ from congrArg Context.stage hk, Context.writeStart_eq]
    · exact .inr (.inr (.inr (.inr (.inr (.inr (habort rfl herr))))))
  | image q b0 p =>
    rcases (execImage_encoded h).stage_change hne with ⟨rfl, hst, -, -, -, hk⟩ | herr
    · refine .inr (.inl ⟨hst, ?_, _, _, rfl⟩)
      rw [show y = _ from congrArg Context.stage hk, Context.writeImage_eq]
    · exact .inr (.inr (.inr (.inr (.inr (.inr (habort rfl herr))))))
  | blit q b0 =>
    rcases (execBlit_encoded h).stage_change hne with ⟨rfl, hst, -, hk⟩ | herr
    · refine .inr (.inr (.inl ⟨hst, ?_, _, rfl⟩))
      rw [show y = _ from congrArg Context.stage hk, Context.writeBlit_eq]
    · exact .inr (.inr (.inr (.inr (.inr (.inr (habort rfl herr))))))
  | endCmd q b0 d =>
    rcases (execEnd_encoded h).stage_change hne with ⟨rfl, hst, -, -, -, hk⟩ | herr
    · refine .inr (.inr (.inr (.inl ⟨hst, ?_, _, _, rfl⟩)))
      rw [show y = _ from congrArg Context.stage hk, Context.writeEnd_eq]
    · exact .inr (.inr (.inr (.inr (.inr (.inr (habort rfl herr))))))
  | handoff q b0 =>
    rcases execHandoff_eq_next h with ⟨-, href⟩ | ⟨hq, rfl⟩ | ⟨-, hst, -, rfl⟩
    · exact absurd (congrArg Context.stage (refusedNext_ctx href b)) hne
    · refine .inr (.inr (.inr (.inr (.inr (.inr (habort rfl ?_))))))
      rcases (encoded_raised (W := fun _ => False) (b := b0) .sequenceError .handoff hq).stage_change hne with
        ⟨-, hfalse⟩ | herr
      · exact hfalse.elim
      · exact herr
    · rcases eq_or_eq_other b0 b with rfl | rfl
      · refine .inr (.inr (.inr (.inr (.inl ⟨hst, ?_, _, rfl⟩))))
        exact congrArg Context.stage (State.handedOffNext_ctx s q b)
      · exact absurd (congrArg Context.stage (State.handedOffNext_ctx_other s q b0)) hne
  | clear q b0 =>
    rcases execClear_eq_next h with href | ⟨-, hm, rfl⟩
    · exact absurd (congrArg Context.stage (refusedNext_ctx href b)) hne
    · rcases eq_or_eq_other b0 b with rfl | rfl
      · refine .inr (.inr (.inr (.inr (.inr (.inl ⟨hm, ?_, _, rfl⟩)))))
        show (State.ctx _ b).stage = _
        rw [State.ctx_reply, State.setCtx_ctx]
        rfl
      · rw [State.ctx_reply, State.setCtx_ctx_other] at hne
        exact absurd rfl hne
  | frame q b0 d ox oy w hh p => cases hp
  | _ => exact absurd (congrArg Context.stage (ctx_of_no_context hp rfl h b)) hne

/-! #### R95: a `Closed` frame is final -/

/-- The bytes and the cursor of a context are as before. -/
def Context.SameBytes (k k' : Context) : Prop :=
  k'.cursor = k.cursor ∧ ∀ a, k'.tb.read a = k.tb.read a

theorem Context.SameBytes.of_eq {k k' : Context} (h : k' = k) : k.SameBytes k' := by
  rw [h]
  exact ⟨rfl, fun _ => rfl⟩

/-- An abort keeps the bytes of every context it did not overflow (60_exceptions.md R121). -/
theorem sameBytes_raise {q : Nat} {b : BufId} {cmd : CommandName} {s t : State}
    (h : raise q b .sequenceError cmd s = .next t) (b' : BufId) : (s.ctx b').SameBytes (t.ctx b') := by
  cases h
  rcases eq_or_eq_other b b' with rfl | rfl
  · simp [Context.SameBytes]
  · simp [Context.SameBytes]

theorem Encoded.sameBytes_other {q : Nat} {b : BufId} {R W : Context → Prop} {s t : State}
    (h : Encoded q b R W s t) : (s.ctx (other b)).SameBytes (t.ctx (other b)) := by
  rcases h.ctx_other with heq | ⟨-, -, heq⟩
  · exact .of_eq heq
  · rw [heq]
    exact ⟨rfl, fun _ => rfl⟩

/-- A command on context `b0` that meets a `Closed` one with SEQUENCE_ERROR leaves the bytes of every `Closed`
context. -/
theorem sameBytes_of_encoder {q : Nat} {b0 b : BufId} {R W : Context → Prop} {cmd : CommandName} {o : Outcome}
    {s t : State} (hst : (s.ctx b).stage = .closed) (henc : ∀ u, o = .next u → Encoded q b0 R W s u)
    (hseq : s.holdsSession q = true → (s.ctx b0).stage = .closed → o = raise q b0 .sequenceError cmd s)
    (h : o = .next t) : (s.ctx b).SameBytes (t.ctx b) := by
  rcases eq_or_eq_other b0 b with rfl | rfl
  · cases hq : s.holdsSession q with
    | true => exact sameBytes_raise ((hseq hq hst).symm.trans h) b
    | false =>
      cases henc t h with
      | refused r _ => exact .of_eq (State.ctx_mk ..)
      | raised k e cmd hq' _ => rw [hq] at hq'; cases hq'
      | wrote k hq' _ => rw [hq] at hq'; cases hq'
  · exact (henc t h).sameBytes_other

/-- Settles O37, command by command: the encoder commands want another stage than `Closed`. -/
theorem closedFrameIsFinal : Obligations.ClosedFrameIsFinal := by
  intro s t i b hst hp hclear hhandoff h
  show (s.ctx b).SameBytes (t.ctx b)
  cases i with
  | start q b0 d ox oy w hh =>
    exact sameBytes_of_encoder hst (fun _ => execStart_encoded)
      (fun hq hc => execStart_sequenceError hq (by rw [hc]; decide)) h
  | image q b0 p =>
    exact sameBytes_of_encoder hst (fun _ => execImage_encoded)
      (fun hq hc => execImage_sequenceError hq (by rw [hc]; decide)) h
  | blit q b0 =>
    exact sameBytes_of_encoder hst (fun _ => execBlit_encoded)
      (fun hq hc => execBlit_sequenceError hq (by rw [hc]; decide)) h
  | endCmd q b0 d =>
    exact sameBytes_of_encoder hst (fun _ => execEnd_encoded)
      (fun hq hc => execEnd_sequenceError hq (by rw [hc]; decide)) h
  | clear q b0 =>
    rcases eq_or_eq_other b0 b with rfl | rfl
    · exact absurd rfl (hclear q)
    · exact .of_eq (execClear_ctx_other h)
  | handoff q b0 =>
    rcases eq_or_eq_other b0 b with rfl | rfl
    · exact absurd rfl (hhandoff q)
    · rcases execHandoff_ctx_other h with heq | ⟨-, -, heq⟩
      · exact .of_eq heq
      · rw [heq]
        exact ⟨rfl, fun _ => rfl⟩
  | frame q b0 d ox oy w hh p => cases hp
  | _ => exact .of_eq (ctx_of_no_context hp rfl h b)

/-! #### R99: the encoder is deterministic -/

/-- Two outcomes with the same result and, unless that is BUFFER_OVERFLOW, the same context `b`. -/
def EndAlike (b : BufId) (o o' : Outcome) : Prop :=
  ∀ t t', o = .next t → o' = .next t' →
    t.lastResult = t'.lastResult ∧ (t.lastResult ≠ some (.err .bufferOverflow) → t.ctx b = t'.ctx b)

section
variable {q : Nat} {b : BufId} {s s' : State}

theorem endAlike_raise (hk : s.ctx b = s'.ctx b) (e : ErrorKind) (cmd : CommandName) :
    EndAlike b (raise q b e cmd s) (raise q b e cmd s') := by
  rintro t t' ⟨⟩ ⟨⟩
  refine ⟨rfl, fun he => ?_⟩
  have he : e ≠ .bufferOverflow := by rintro rfl; exact he rfl
  simp only [State.ctx_reply, State.abort_ctx, State.beforeAbort_ctx, if_neg he, hk]

theorem endAlike_wrote {k k' : Context} (hk : k = k') :
    EndAlike b (finish q .ok (s.setCtx b k)) (finish q .ok (s'.setCtx b k')) := by
  rintro t t' ⟨⟩ ⟨⟩
  refine ⟨rfl, fun _ => ?_⟩
  simp only [State.ctx_reply, State.setCtx_ctx, hk]

/-- The same check, passed or failed in both states. -/
theorem endAlike_ite {p p' : Prop} [Decidable p] [Decidable p'] (hp : p ↔ p') {o1 o2 o1' o2' : Outcome}
    (h1 : EndAlike b o1 o1') (h2 : EndAlike b o2 o2') :
    EndAlike b (if p then o1 else o2) (if p' then o1' else o2') := by
  by_cases h : p
  · rw [if_pos h, if_pos (hp.mp h)]
    exact h1
  · rw [if_neg h, if_neg fun h' => h (hp.mpr h')]
    exact h2

theorem endAlike_withSession {o o' : Outcome} (hq : s.holdsSession q = true) (hq' : s'.holdsSession q = true)
    (h : EndAlike b o o') : EndAlike b (withSession q s o) (withSession q s' o') := by
  rwa [withSession_pos hq, withSession_pos hq']

theorem fits_congr (hc : s.cfg = s'.cfg) (hk : s.ctx b = s'.ctx b) (n : Nat) : s.fits b n = s'.fits b n := by
  rw [State.fits, State.fits, hc, hk]

end

/-- Settles O38, check by check: each reads the context, the parameters and the operands alone. -/
theorem encoderIsDeterministic : Obligations.EncoderIsDeterministic := by
  intro s s' t t' i q b hraise hn hhandoff hreq hc hk hq hq' h h'
  have hfits := fits_congr hc hk
  suffices hend : EndAlike b (exec i s) (exec i s') from hend t t' h h'
  cases i with
  | start q b d ox oy w hh =>
    cases hn; cases hreq
    refine endAlike_withSession hq hq' (endAlike_ite (by rw [hk]) (endAlike_raise hk _ _)
      (endAlike_ite Iff.rfl (endAlike_raise hk _ _) (endAlike_ite (by rw [hfits]) (endAlike_raise hk _ _)
        (endAlike_wrote (by rw [hk, hc])))))
  | image q b p =>
    cases hn; cases hreq
    refine endAlike_withSession hq hq' (endAlike_ite (by rw [hk]) (endAlike_raise hk _ _)
      (endAlike_ite Iff.rfl (endAlike_raise hk _ _) (endAlike_ite (by rw [hc]) (endAlike_raise hk _ _)
        (endAlike_ite (by rw [hfits]) (endAlike_raise hk _ _) (endAlike_wrote (by rw [hk, hc]))))))
  | blit q b =>
    cases hn; cases hreq
    refine endAlike_withSession hq hq' (endAlike_ite (by rw [hk]) (endAlike_raise hk _ _)
      (endAlike_ite (by rw [hfits]) (endAlike_raise hk _ _) (endAlike_wrote (by rw [hk, hc]))))
  | endCmd q b d =>
    cases hn; cases hreq
    refine endAlike_withSession hq hq' (endAlike_ite (by rw [hk]) (endAlike_raise hk _ _)
      (endAlike_ite (by rw [hk]) (endAlike_raise hk _ _) (endAlike_ite (by rw [hfits, hc]) (endAlike_raise hk _ _)
        (endAlike_wrote (by rw [hk, hc])))))
  | handoff q b => cases hn; exact absurd rfl (hhandoff q)
  | _ => exact absurd rfl hraise

/-! #### R97, R101: a requester without the session -/

theorem execAcquire_dropped {q : Nat} {s : State} (h : s.transportAttached = false ∨ s.busy = true) :
    execAcquire q s = finish q .dropped s := by
  rcases Bool.eq_false_or_eq_true s.transportAttached with ha | ha
  · exact execAcquire_busy ha (h.resolve_left (by simp [ha]))
  · exact execAcquire_unattached ha

theorem execSend_badSendInput {q : Nat} {v : List U8} {dL dR : U8} {s : State} (hv : v.length ≠ virtualLength s.cfg) :
    execSend q v dL dR s = refuse q .badSendInput s :=
  if_pos hv

theorem execSend_dropped {q : Nat} {v : List U8} {dL dR : U8} {s : State} (hv : v.length = virtualLength s.cfg)
    (h : s.transportAttached = false ∨ s.busy = true) : execSend q v dL dR s = finish q .dropped s := by
  rw [execSend, if_neg (not_not.mpr hv), execAcquire_dropped h]
  rfl

theorem execSend1_dropped {q : Nat} {p : List U8} {d ox oy : U8} {w hh : U16} {s : State}
    (h : s.transportAttached = false ∨ s.busy = true) : execSend1 q p d ox oy w hh s = finish q .dropped s := by
  rw [execSend1, execAcquire_dropped h]
  rfl

/-- Settles O27: the check of the bitmap's length, then that of the ACQUIRE. -/
theorem sendIsDroppedOrRefused : Obligations.SendIsDroppedOrRefused := by
  intro s q v dL dR f
  exact ⟨execSend_badSendInput, execSend_dropped, execSend1_dropped⟩

/-- FRAME outside the session is refused at its START (41_frame_encoder.md R96). -/
theorem execFrame_notOwner {q : Nat} {b : BufId} {d ox oy : U8} {w hh : U16} {p : List U8} {s : State}
    (hq : s.holdsSession q = false) : execFrame q b d ox oy w hh p s = refuse q .notOwner s := by
  rw [execFrame, execStart, withSession_neg hq]
  rfl

/-- A command that only returns a result, or is refused, changes nothing else. -/
theorem changesNothing_of_finish {o : Outcome} {s : State} {q : Nat} {r : Result} (h : o = finish q r s) :
    ∃ t r', o = .next t ∧ t = { s with refused := t.refused, reply := some ⟨q, r'⟩ } ∧
      (s.refused = true → t.refused = true) :=
  ⟨_, r, h, rfl, id⟩

theorem changesNothing_of_refuse {o : Outcome} {s : State} {q : Nat} {r : RefuseReason} (h : o = refuse q r s) :
    ∃ t r', o = .next t ∧ t = { s with refused := t.refused, reply := some ⟨q, r'⟩ } ∧
      (s.refused = true → t.refused = true) :=
  ⟨_, .refused r, h, rfl, fun _ => rfl⟩

/-- Settles O33: ACQUIRE and the sends are dropped, QUANT replies, and the session check refuses the others. -/
theorem foreignCommandChangesNothing : Obligations.ForeignCommandChangesNothing := by
  intro s i q q' hbusy howner hreq hne
  have hq : s.holdsSession q' = false := by simpa [State.holdsSession, howner] using fun _ => Ne.symm hne
  have hsession : ∀ rest, withSession q' s rest = refuse q' .notOwner s := withSession_neg hq
  cases i with
  | acquire q => cases hreq; exact changesNothing_of_finish (execAcquire_dropped (.inr hbusy))
  | release q => cases hreq; exact changesNothing_of_refuse (hsession _)
  | clear q b => cases hreq; exact changesNothing_of_refuse (hsession _)
  | start q b d ox oy w hh => cases hreq; exact changesNothing_of_refuse (hsession _)
  | image q b p => cases hreq; exact changesNothing_of_refuse (hsession _)
  | blit q b => cases hreq; exact changesNothing_of_refuse (hsession _)
  | endCmd q b d => cases hreq; exact changesNothing_of_refuse (hsession _)
  | handoff q b => cases hreq; exact changesNothing_of_refuse (hsession _)
  | quant q r g bl a => cases hreq; exact changesNothing_of_finish (exec_quant _ r g bl a s)
  | frame q b d ox oy w hh p => cases hreq; exact changesNothing_of_refuse (execFrame_notOwner hq)
  | send q v dL dR =>
    cases hreq
    by_cases hv : v.length = virtualLength s.cfg
    · exact changesNothing_of_finish (execSend_dropped hv (.inr hbusy))
    · exact changesNothing_of_refuse (execSend_badSendInput hv)
  | send1 q p d ox oy w hh => cases hreq; exact changesNothing_of_finish (execSend1_dropped (.inr hbusy))
  | _ => cases hreq

/-! #### R27, R28: the end of a session -/

/-- A SEND or SEND1 with a session in flight only returns a result (42_session_control.md R109, R111). -/
theorem send_busy {i : Instr} {s t : State} (hb : s.busy = true)
    (hi : (∃ q v dL dR, i = .send q v dL dR) ∨ ∃ q p d ox oy w h, i = .send1 q p d ox oy w h)
    (h : exec i s = .next t) : ∃ y r, t = { s with refused := r, reply := some y } ∧ ∀ e, y.result ≠ .err e := by
  rcases hi with ⟨q, v, dL, dR, rfl⟩ | ⟨q, p, d, ox, oy, w, hh, rfl⟩
  · rw [exec_send] at h
    by_cases hv : v.length = virtualLength s.cfg
    · rw [execSend_dropped hv (.inr hb)] at h
      cases h
      exact ⟨⟨q, _⟩, s.refused, rfl, nofun⟩
    · rw [execSend_badSendInput hv] at h
      cases h
      exact ⟨⟨q, _⟩, true, rfl, nofun⟩
  · rw [exec_send1, execSend1_dropped (.inr hb)] at h
    cases h
    exact ⟨⟨q, _⟩, s.refused, rfl, nofun⟩

/-- Inside a session, a command of its owner other than RELEASE keeps the session or ends it with an error. -/
theorem session_kept_or_error {i : Instr} {s t : State} {q : Nat} (hb : s.busy = true) (hreq : i.requester = some q)
    (hrel : i ≠ .release q) (h : exec i s = .next t) :
    t.busy = s.busy ∨ (t.owner = none ∧ ∃ e, t.lastResult = some (.err e)) := by
  have hencoded : ∀ {q b R W}, Encoded q b R W s t →
      t.busy = s.busy ∨ (t.owner = none ∧ ∃ e, t.lastResult = some (.err e)) := fun henc =>
    henc.session.imp And.left fun h => ⟨h.2.2.1, h.2.2.2⟩
  cases i with
  | acquire q =>
    rcases execAcquire_eq_next h with ⟨rfl, -⟩ | ⟨-, -, hfree⟩
    · exact .inl rfl
    · rw [hb] at hfree; cases hfree
  | release q' => cases hreq; exact absurd rfl hrel
  | clear q b =>
    rcases execClear_eq_next h with ⟨r, rfl⟩ | ⟨-, -, rfl⟩
    · exact .inl rfl
    · exact .inl (State.setCtx_busy ..)
  | start q b d ox oy w hh => exact hencoded (execStart_encoded h)
  | image q b p => exact hencoded (execImage_encoded h)
  | blit q b => exact hencoded (execBlit_encoded h)
  | endCmd q b d => exact hencoded (execEnd_encoded h)
  | handoff q b =>
    rcases execHandoff_eq_next h with ⟨-, r, rfl⟩ | ⟨-, rfl⟩ | ⟨-, -, -, rfl⟩
    · exact .inl rfl
    · exact .inr ⟨rfl, _, rfl⟩
    · exact .inl (State.setCtx_busy ..)
  | quant q r g bl a => cases h; exact .inl rfl
  | frame q b d ox oy w hh p => exact hencoded (execFrame_encoded (f := ⟨d, ox, oy, w, hh, p⟩) h)
  | send q v dL dR =>
    obtain ⟨y, r, rfl, -⟩ := send_busy hb (.inl ⟨q, v, dL, dR, rfl⟩) h
    exact .inl rfl
  | send1 q p d ox oy w hh =>
    obtain ⟨y, r, rfl, -⟩ := send_busy hb (.inr ⟨q, p, d, ox, oy, w, hh, rfl⟩) h
    exact .inl rfl
  | _ => cases hreq

/-- Settles O36: another requester changes nothing, and the owner ends its session by RELEASE or by an error. -/
theorem sessionEndsOnlyByReleaseOrError : Obligations.SessionEndsOnlyByReleaseOrError := by
  intro s t i q hb ho h ht
  obtain ⟨q', hreq, -⟩ := exec_steps h
  have hq' : q' = q := by
    by_contra hne
    obtain ⟨u, r, hu, hsame, -⟩ := foreignCommandChangesNothing s i q q' hb ho hreq hne
    obtain rfl : t = u := Host.Outcome.next.inj (h.symm.trans hu)
    have hbusy : t.busy = s.busy := by rw [hsame]
    rw [hbusy, hb] at ht
    cases ht
  subst hq'
  by_cases hrel : i = .release q'
  · subst hrel
    rcases execRelease_eq_next h with ⟨r, rfl⟩ | ⟨-, -, rfl⟩
    · exact absurd (hb.symm.trans ht) nofun
    · exact ⟨rfl, rfl, .inl ⟨rfl, rfl⟩⟩
  · rcases session_kept_or_error hb hreq hrel h with hbusy | ⟨hnone, herr⟩
    · rw [hbusy, hb] at ht
      cases ht
    · exact ⟨hreq, hnone, .inr herr⟩

/-! #### R105, R106: transport writes -/

/-- No command of R67 but HANDOFF makes a transport write, and none but HANDOFF and a granted ACQUIRE writes
`handedOff` (log 20). -/
theorem sent_of_not_handoff {i : Instr} {s t : State} (hp : isPseudo i = false) (hi : ∀ q b, i ≠ .handoff q b)
    (h : exec i s = .next t) : t.xferLog = s.xferLog ∧ (s.busy = true → t.handedOff = s.handedOff) := by
  cases i with
  | acquire q =>
    rcases execAcquire_eq_next h with ⟨rfl, -⟩ | ⟨rfl, -, hfree⟩
    · exact ⟨rfl, fun _ => rfl⟩
    · exact ⟨rfl, fun hb => absurd (hb.symm.trans hfree) nofun⟩
  | release q =>
    rcases execRelease_eq_next h with ⟨r, rfl⟩ | ⟨-, -, rfl⟩
    · exact ⟨rfl, fun _ => rfl⟩
    · exact ⟨rfl, fun _ => rfl⟩
  | clear q b =>
    rcases execClear_eq_next h with ⟨r, rfl⟩ | ⟨-, -, rfl⟩
    · exact ⟨rfl, fun _ => rfl⟩
    · exact ⟨State.setCtx_xferLog .., fun _ => State.setCtx_handedOff ..⟩
  | start q b d ox oy w hh => exact (execStart_encoded h).sent.imp_right fun heq _ => heq
  | image q b p => exact (execImage_encoded h).sent.imp_right fun heq _ => heq
  | blit q b => exact (execBlit_encoded h).sent.imp_right fun heq _ => heq
  | endCmd q b d => exact (execEnd_encoded h).sent.imp_right fun heq _ => heq
  | handoff q b => exact absurd rfl (hi q b)
  | quant q r g bl a => cases h; exact ⟨rfl, fun _ => rfl⟩
  | frame q b d ox oy w hh p => cases hp
  | send q v dL dR => cases hp
  | send1 q p d ox oy w hh => cases hp
  | _ => cases h

/-- Settles O55: HANDOFF answers `OK` exactly where it appends its entry. -/
theorem onlyHandoffWritesToTransport : Obligations.OnlyHandoffWritesToTransport := by
  intro s t i hp h
  cases i with
  | handoff q b =>
    rcases execHandoff_eq_next h with ⟨-, r, rfl⟩ | ⟨-, rfl⟩ | ⟨-, -, -, rfl⟩
    · simp
    · simp
    · simp [State.handedOffNext]
  | _ =>
    have hlog := (sent_of_not_handoff hp nofun h).1
    simp only [hlog, List.append_nil]

end Sys2Proof.Machine
end

/-! ### FRAME, SEND and SEND1 (41_frame_encoder.md R96, 42_session_control.md R107, R109) -/

section
namespace Sys2Proof.Machine

open Sys2Proof.Claims

/-! #### FRAME completes -/

section
variable {q : Nat} {b : BufId} {s t : State}

theorem finish_wroteCtx (k k' : Context) :
    finish q .ok ((s.wroteCtx q b k).setCtx b k') = .next (s.wroteCtx q b k') := by
  cases b <;> rfl

theorem execImage_wroteCtx {k : Context} {p : List U8} (hq : s.holdsSession q = true) (hst : k.stage = .headerWritten)
    (hl : p.length % 4 = 0) (hr : runLength s.cfg p ≤ 0xFFFF)
    (hf : k.cursor + (4 + 2 * pixelCount p) ≤ s.cfg.capacity b) :
    execImage q b p (s.wroteCtx q b k) = .next (s.wroteCtx q b (k.writeImage s.cfg p)) := by
  rw [execImage_ok (by rwa [State.wroteCtx_holdsSession]) (by rwa [State.wroteCtx_ctx]) hl
    (by rwa [State.wroteCtx_cfg]) (by rwa [State.fits_iff, State.wroteCtx_ctx, State.wroteCtx_cfg]),
    finish_wroteCtx, State.wroteCtx_ctx, State.wroteCtx_cfg]

theorem execBlit_wroteCtx {k : Context} (hq : s.holdsSession q = true) (hst : k.stage = .pixelsWritten)
    (hf : k.cursor + 4 ≤ s.cfg.capacity b) :
    execBlit q b (s.wroteCtx q b k) = .next (s.wroteCtx q b (k.writeBlit s.cfg)) := by
  rw [execBlit_ok (by rwa [State.wroteCtx_holdsSession]) (by rwa [State.wroteCtx_ctx])
    (by rwa [State.fits_iff, State.wroteCtx_ctx, State.wroteCtx_cfg]), finish_wroteCtx, State.wroteCtx_ctx,
    State.wroteCtx_cfg]

theorem execEnd_wroteCtx {k : Context} {d : U8} (hq : s.holdsSession q = true) (hst : k.stage = .blitIssued)
    (hd : legalSelector d = true) (hm : k.disp = some d) (hf : k.cursor + (3 + s.cfg.padLen) ≤ s.cfg.capacity b) :
    execEnd q b d (s.wroteCtx q b k) = .next (s.wroteCtx q b (k.writeEnd s.cfg d)) := by
  rw [execEnd_ok (by rwa [State.wroteCtx_holdsSession]) (by rwa [State.wroteCtx_ctx]) hd
    (by rwa [State.wroteCtx_ctx]) (by rwa [State.fits_iff, State.wroteCtx_ctx, State.wroteCtx_cfg]),
    finish_wroteCtx, State.wroteCtx_ctx, State.wroteCtx_cfg]

theorem ifOk_wroteCtx (k : Context) (f : State → Outcome) :
    ifOk (.next (s.wroteCtx q b k)) f = f (s.wroteCtx q b k) :=
  ifOk_next_ok (s.wroteCtx_lastResult q b k)

/-- FRAME where it passes every check of its four commands. -/
theorem execFrame_ok {f : FrameArgs} (hq : s.holdsSession q = true) (hst : (s.ctx b).stage = .idle)
    (hf : f.legal s.cfg) (hfits : (s.ctx b).cursor + frameLength s.cfg (pixelCount f.p) ≤ s.cfg.capacity b) :
    execFrame q b f.d f.ox f.oy f.w f.h f.p s =
      finish q .ok
        (s.setCtx b { (s.ctx b).putBytes (f.bytes s.cfg) with stage := .closed, disp := some f.d }) := by
  obtain ⟨hd, hl, hr⟩ := hf
  rw [frameLength] at hfits
  have hstart : execStart q b f.d f.ox f.oy f.w f.h s =
      .next (s.wroteCtx q b ((s.ctx b).writeStart s.cfg f.d f.ox f.oy f.w f.h)) :=
    execStart_ok hq hst hd ((s.fits_iff b _).mpr (by omega))
  rw [execFrame, hstart, ifOk_wroteCtx, execImage_wroteCtx hq (by rw [Context.writeStart_eq]) hl hr, ifOk_wroteCtx,
    execBlit_wroteCtx hq (by rw [Context.writeImage_eq]), ifOk_wroteCtx,
    execEnd_wroteCtx hq (by rw [Context.writeBlit_eq]) hd]
  · simp only [Context.writeStart_eq, Context.writeImage_eq, Context.writeBlit_eq, Context.writeEnd_eq,
      FrameArgs.bytes_eq, ← Context.putBytes_putBytes]
    rfl
  · rw [Context.writeBlit_eq, Context.writeImage_eq, Context.writeStart_eq]
    rfl
  · simp only [Context.writeStart_eq, Context.writeImage_eq, Context.writeBlit_eq, Context.putBytes_cursor,
      startRecord_length, imageRecord_length, blitRecord_length]
    omega
  · simp only [Context.writeStart_eq, Context.writeImage_eq, Context.putBytes_cursor, startRecord_length,
      imageRecord_length]
    omega
  · simp only [Context.writeStart_eq, Context.putBytes_cursor, startRecord_length]
    omega

end

/-- Settles O17: the four records in a row are one put of the whole frame. -/
theorem frameWritesWholeFrame : Obligations.FrameWritesWholeFrame := by
  intro s q b f hwf hq hst hf hfits
  exact answers_of_putBytes hwf ((exec_frame ..).trans (execFrame_ok hq hst hf hfits))

/-- Settles O48: after reset the ACQUIRE is granted, and either context is `Idle` and empty (R136). -/
theorem firstFrameNeedsNoClear : Obligations.FirstFrameNeedsNoClear := by
  intro c q b f hf hfits
  refine ⟨_, (exec_acquire q _).trans (execAcquire_free rfl rfl), rfl, ?_⟩
  have hctx : ∀ t : State, t.ctx0 = Context.reset → t.ctx1 = Context.reset → t.ctx b = Context.reset := by
    intro t h0 h1
    cases b
    · exact h0
    · exact h1
  refine answers_mono (frameWritesWholeFrame _ q b f ?_ ?_ ?_ hf ?_) fun u hu => ?_
  · rw [hctx _ rfl rfl]; rfl
  · simp [State.holdsSession]
  · rw [hctx _ rfl rfl]; rfl
  · rw [hctx _ rfl rfl]
    exact (Nat.zero_add _).trans_le hfits
  · obtain ⟨-, hst, -, happ⟩ := hu
    refine ⟨hst, ?_⟩
    rw [happ.cursor, hctx _ rfl rfl, FrameArgs.bytes_length]
    exact Nat.zero_add _

/-! #### CLEAR, then FRAME: what SEND does with each half, and SEND1 with its buffer -/

/-- The context that holds a whole frame and nothing else (41_frame_encoder.md R96). -/
def wholeFrame (c : Config) (f : FrameArgs) : Context :=
  { Context.reset.putBytes (f.bytes c) with stage := .closed, disp := some f.d }

theorem wholeFrame_wrote (c : Config) (f : FrameArgs) : (wholeFrame c f).Wrote (f.bytes c) :=
  (show Context.reset.Wrote [] from ⟨rfl, rfl⟩).putBytes (f.bytes c)

@[simp] theorem wholeFrame_stage (c : Config) (f : FrameArgs) : (wholeFrame c f).stage = .closed := rfl
@[simp] theorem wholeFrame_cursor (c : Config) (f : FrameArgs) :
    (wholeFrame c f).cursor = frameLength c (pixelCount f.p) :=
  (wholeFrame_wrote c f).2.trans (f.bytes_length c)

@[simp] theorem wholeFrame_frameBytes (c : Config) (f : FrameArgs) (n : Nat) :
    (wholeFrame c f).frameBytes n = f.bytes c :=
  (wholeFrame_wrote c f).frameBytes n

@[simp] theorem wholeFrame_read (c : Config) (f : FrameArgs) (a : Nat) :
    (wholeFrame c f).tb.read a = (f.bytes c)[a]? := by
  rw [(wholeFrame_wrote c f).1, Memory.read_ofBytes]

/-- CLEAR b, then FRAME b (42_session_control.md R107, R109). -/
def clearFrame (q : Nat) (b : BufId) (f : FrameArgs) (s : State) : Outcome :=
  andThen (execClear q b s) fun s1 => execFrame q b f.d f.ox f.oy f.w f.h f.p s1

/-- The operands of a SEND's FRAME are those of the half, whatever CLEAR answered. -/
theorem sendHalf_eq (q : Nat) (b : BufId) (d : U8) (p : List U8) (s : State) :
    sendHalf q b d p s = clearFrame q b (halfFrame s.cfg d p) s := by
  rw [sendHalf, clearFrame]
  cases hx : execClear q b s with
  | next s1 => rw [andThen_next, andThen_next, (execClear_cases hx).cfg]; rfl
  | fault r => rfl
  | refused r => rfl

/-- SEND1 goes on only after a FRAME that returned `OK`, as SEND does. -/
theorem andThen_ifOk (o : Outcome) (f g : State → Outcome) :
    (andThen o fun u => ifOk (f u) g) = ifOk (andThen o f) g := by
  cases o <;> rfl

section
variable {q : Nat} {b : BufId} {s t : State} {f : FrameArgs}

/-- In its session, with the context not mid-frame, CLEAR succeeds and FRAME starts from an empty context. -/
theorem clearFrame_eq (hq : s.holdsSession q = true) (hm : (s.ctx b).stage.midFrame = false) :
    clearFrame q b f s = execFrame q b f.d f.ox f.oy f.w f.h f.p (s.wroteCtx q b Context.reset) := by
  rw [clearFrame, execClear_ok hq hm]
  rfl

theorem clearFrame_ok (hq : s.holdsSession q = true) (hm : (s.ctx b).stage.midFrame = false) (hf : f.legal s.cfg)
    (hfits : frameLength s.cfg (pixelCount f.p) ≤ s.cfg.capacity b) :
    clearFrame q b f s = .next (s.wroteCtx q b (wholeFrame s.cfg f)) := by
  rw [clearFrame_eq hq hm, execFrame_ok (by rwa [State.wroteCtx_holdsSession]) (by rw [State.wroteCtx_ctx]; rfl)
    (by rwa [State.wroteCtx_cfg]), finish_wroteCtx, State.wroteCtx_ctx, State.wroteCtx_cfg]
  · rfl
  · rw [State.wroteCtx_ctx, State.wroteCtx_cfg]
    simpa [Context.reset] using hfits

/-- CLEAR and FRAME in the session: the whole frame alone, or an error of a context that had none before. -/
theorem clearFrame_encoded (hq : s.holdsSession q = true) (hm : (s.ctx b).stage.midFrame = false)
    (h : clearFrame q b f s = .next t) :
    Encoded q b (fun k => k.err = none)
      (fun k => f.legal s.cfg ∧ frameLength s.cfg (pixelCount f.p) ≤ s.cfg.capacity b ∧ k = wholeFrame s.cfg f) s t := by
  rw [clearFrame_eq hq hm] at h
  refine ((execFrame_encoded h).mono (fun k hk => ?_) (fun k hk => ?_)).after_wrote hq
  · rw [hk, State.wroteCtx_ctx]
    rfl
  · rw [State.wroteCtx_ctx, State.wroteCtx_cfg] at hk
    obtain ⟨-, hf, hfits, rfl⟩ := hk
    exact ⟨hf, by simpa [Context.reset] using hfits, rfl⟩

/-! #### The end of a send: HANDOFF, RELEASE -/

/-- HANDOFF of a whole frame that this session did not hand off yet. -/
theorem execHandoff_wholeFrame (hq : s.holdsSession q = true) (hk : s.ctx b = wholeFrame s.cfg f)
    (hn : b ∉ s.handedOff) (hfits : frameLength s.cfg (pixelCount f.p) ≤ s.cfg.capacity b) :
    execHandoff q b s = .next (s.handedOffNext q b) := by
  refine execHandoff_ok hq (by rw [hk, wholeFrame_stage]) hn ?_
  rwa [hk, wholeFrame_cursor]

/-- The state after a RELEASE that succeeds (42_session_control.md R102). -/
def State.releasedNext (s : State) (q : Nat) : State :=
  { s with busy := false, owner := none, reply := some ⟨q, .ok⟩ }

end

/-- The state after a granted ACQUIRE (42_session_control.md R100). -/
def State.granted (s : State) (q : Nat) : State :=
  { s with busy := true, owner := some q, handedOff := [], reply := some ⟨q, .granted⟩ }

@[simp] theorem State.granted_holdsSession (s : State) (q : Nat) : (s.granted q).holdsSession q = true := by
  simp [State.granted, State.holdsSession]

@[simp] theorem State.granted_cfg (s : State) (q : Nat) : (s.granted q).cfg = s.cfg := rfl

/-- A send goes on from its granted ACQUIRE. -/
theorem unlessDropped_granted {q : Nat} {s : State} (ha : s.transportAttached = true) (hb : s.busy = false)
    (f : State → Outcome) : unlessDropped (execAcquire q s) f = f (s.granted q) := by
  rw [execAcquire_free ha hb]
  rfl

/-- SEND after its granted ACQUIRE (42_session_control.md R107). -/
theorem execSend_granted {q : Nat} {v : List U8} {dL dR : U8} {s : State} (hv : v.length = virtualLength s.cfg)
    (ha : s.transportAttached = true) (hb : s.busy = false) :
    execSend q v dL dR s =
      ifOk (clearFrame q .tb0 (halfFrame s.cfg dL (leftHalf s.cfg v)) (s.granted q)) fun s2 =>
        ifOk (clearFrame q .tb1 (halfFrame s2.cfg dR (rightHalf s.cfg v)) s2) fun s3 =>
          andThen (execHandoff q .tb0 s3) fun s4 =>
            andThen (execHandoff q .tb1 s4) fun s5 => andThen (execRelease q s5) (finish q .ok) := by
  rw [execSend, if_neg (not_not.mpr hv), unlessDropped_granted ha hb]
  simp only [sendHalf_eq, State.granted_cfg]

/-- SEND1 after its granted ACQUIRE (42_session_control.md R109). -/
theorem execSend1_granted {q : Nat} {f : FrameArgs} {s : State} (ha : s.transportAttached = true)
    (hb : s.busy = false) :
    execSend1 q f.p f.d f.ox f.oy f.w f.h s =
      ifOk (clearFrame q .tb0 f (s.granted q)) fun s3 =>
        andThen (execHandoff q .tb0 s3) fun s4 => andThen (execRelease q s4) (finish q .ok) := by
  rw [execSend1, unlessDropped_granted ha hb, andThen_ifOk]
  rfl

/-- A sequence that ends by returning a result has returned it. -/
theorem andThen_finish_reply {o : Outcome} {q : Nat} {r : Result} {t : State}
    (h : andThen o (finish q r) = .next t) : t.reply = some ⟨q, r⟩ := by
  obtain ⟨u, -, hu⟩ := andThen_eq_next h
  cases hu
  rfl

/-! #### Sends that complete (R107, R109) -/

/-- The state in which a SEND hands off: both whole frames stand in their buffers. -/
def State.bothFramed (s : State) (q : Nat) (fL fR : FrameArgs) : State :=
  ((s.granted q).wroteCtx q .tb0 (wholeFrame s.cfg fL)).wroteCtx q .tb1 (wholeFrame s.cfg fR)

/-- The state that a completed SEND leaves. -/
def State.bothSent (s : State) (q : Nat) (fL fR : FrameArgs) : State :=
  (((s.bothFramed q fL fR).handedOffNext q .tb0).handedOffNext q .tb1).releasedNext q

/-- The state that a completed SEND1 leaves. -/
def State.oneSent (s : State) (q : Nat) (f : FrameArgs) : State :=
  (((s.granted q).wroteCtx q .tb0 (wholeFrame s.cfg f)).handedOffNext q .tb0).releasedNext q

section
variable {q : Nat} {s : State} {f fL fR : FrameArgs}

theorem handoff_bothFramed_first (hL : frameLength s.cfg (pixelCount fL.p) ≤ s.cfg.capacity .tb0) :
    execHandoff q .tb0 (s.bothFramed q fL fR) = .next ((s.bothFramed q fL fR).handedOffNext q .tb0) :=
  execHandoff_wholeFrame (f := fL) (s.granted_holdsSession q) rfl (List.not_mem_nil) hL

theorem handoff_bothFramed_second (hR : frameLength s.cfg (pixelCount fR.p) ≤ s.cfg.capacity .tb1) :
    execHandoff q .tb1 ((s.bothFramed q fL fR).handedOffNext q .tb0) =
      .next (((s.bothFramed q fL fR).handedOffNext q .tb0).handedOffNext q .tb1) :=
  execHandoff_wholeFrame (f := fR) (s.granted_holdsSession q) rfl
    (by simp [State.handedOffNext, State.bothFramed, State.wroteCtx, State.granted]) hR

theorem release_bothFramed :
    execRelease q (((s.bothFramed q fL fR).handedOffNext q .tb0).handedOffNext q .tb1) =
      .next (s.bothSent q fL fR) :=
  execRelease_ok (s.granted_holdsSession q) rfl

theorem handoff_oneFramed (hf : frameLength s.cfg (pixelCount f.p) ≤ s.cfg.capacity .tb0) :
    execHandoff q .tb0 ((s.granted q).wroteCtx q .tb0 (wholeFrame s.cfg f)) =
      .next (((s.granted q).wroteCtx q .tb0 (wholeFrame s.cfg f)).handedOffNext q .tb0) :=
  execHandoff_wholeFrame (f := f) (s.granted_holdsSession q) rfl (List.not_mem_nil) hf

theorem release_oneFramed (hm : s.ctx1.stage.midFrame = false) :
    execRelease q (((s.granted q).wroteCtx q .tb0 (wholeFrame s.cfg f)).handedOffNext q .tb0) =
      .next (s.oneSent q f) :=
  execRelease_ok (s.granted_holdsSession q) hm

/-- A SEND after both its FRAMEs: two HANDOFFs and the RELEASE. -/
theorem send_ends (hL : frameLength s.cfg (pixelCount fL.p) ≤ s.cfg.capacity .tb0)
    (hR : frameLength s.cfg (pixelCount fR.p) ≤ s.cfg.capacity .tb1) :
    (andThen (execHandoff q .tb0 (s.bothFramed q fL fR)) fun s4 =>
      andThen (execHandoff q .tb1 s4) fun s5 => andThen (execRelease q s5) (finish q .ok)) =
      .next (s.bothSent q fL fR) := by
  rw [handoff_bothFramed_first hL, andThen_next, handoff_bothFramed_second hR, andThen_next, release_bothFramed]
  rfl

/-- A SEND1 after its FRAME: the HANDOFF and the RELEASE. -/
theorem send1_ends (hm : s.ctx1.stage.midFrame = false)
    (hf : frameLength s.cfg (pixelCount f.p) ≤ s.cfg.capacity .tb0) :
    (andThen (execHandoff q .tb0 ((s.granted q).wroteCtx q .tb0 (wholeFrame s.cfg f))) fun s4 =>
      andThen (execRelease q s4) (finish q .ok)) = .next (s.oneSent q f) := by
  rw [handoff_oneFramed hf, andThen_next, release_oneFramed hm]
  rfl

end

/-- The pixels of a half, counted (R108). -/
theorem pixelCount_half {c : Config} {v : List U8} (hv : v.length = virtualLength c) :
    pixelCount (leftHalf c v) = halfPixels c ∧ pixelCount (rightHalf c v) = halfPixels c := by
  obtain ⟨hl, hr, -⟩ := halvesAreTheColumns c v hv
  rw [pixelCount, pixelCount, hl, hr]
  omega

/-- A half of a virtual bitmap makes a legal frame (R107). -/
theorem halfFrame_legal {c : Config} {d : U8} {p : List U8} (hd : legalSelector d = true)
    (hp : p.length = halfPixels c * 4) (hr : halfPixels c / c.blockFactor ≤ 0xFFFF) : (halfFrame c d p).legal c := by
  have hcount : pixelCount p = halfPixels c := by rw [pixelCount, hp]; omega
  exact ⟨hd, by show p.length % 4 = 0; omega, by rwa [halfFrame, runLength, hcount]⟩

/-- What no command of a completed send writes. -/
structure State.SameBlock (s t : State) : Prop where
  cfg : t.cfg = s.cfg
  transportAttached : t.transportAttached = s.transportAttached
  errLog : t.errLog = s.errLog
  refused : t.refused = s.refused
  pending : t.pending = s.pending

theorem State.SameBlock.trans {s t u : State} (h : s.SameBlock t) (h' : t.SameBlock u) : s.SameBlock u :=
  ⟨h'.cfg.trans h.cfg, h'.transportAttached.trans h.transportAttached, h'.errLog.trans h.errLog,
    h'.refused.trans h.refused, h'.pending.trans h.pending⟩

theorem State.sameBlock_granted (s : State) (q : Nat) : s.SameBlock (s.granted q) :=
  ⟨rfl, rfl, rfl, rfl, rfl⟩

theorem State.sameBlock_wroteCtx (s : State) (q : Nat) (b : BufId) (k : Context) : s.SameBlock (s.wroteCtx q b k) := by
  cases b <;> exact ⟨rfl, rfl, rfl, rfl, rfl⟩

theorem State.sameBlock_handedOffNext (s : State) (q : Nat) (b : BufId) : s.SameBlock (s.handedOffNext q b) := by
  cases b <;> exact ⟨rfl, rfl, rfl, rfl, rfl⟩

theorem State.sameBlock_releasedNext (s : State) (q : Nat) : s.SameBlock (s.releasedNext q) :=
  ⟨rfl, rfl, rfl, rfl, rfl⟩

theorem State.sameBlock_bothSent (s : State) (q : Nat) (fL fR : FrameArgs) : s.SameBlock (s.bothSent q fL fR) :=
  (s.sameBlock_granted q).trans ((State.sameBlock_wroteCtx ..).trans ((State.sameBlock_wroteCtx ..).trans
    ((State.sameBlock_handedOffNext ..).trans ((State.sameBlock_handedOffNext ..).trans
      (State.sameBlock_releasedNext ..)))))

theorem State.sameBlock_oneSent (s : State) (q : Nat) (f : FrameArgs) : s.SameBlock (s.oneSent q f) :=
  (s.sameBlock_granted q).trans ((State.sameBlock_wroteCtx ..).trans ((State.sameBlock_handedOffNext ..).trans
    (State.sameBlock_releasedNext ..)))

/-- What a completed SEND leaves of a context and of the log. -/
theorem State.bothSent_sent (s : State) (q : Nat) (fL fR : FrameArgs) :
    (s.bothSent q fL fR).xferLog = s.xferLog ++ [⟨.tb0, fL.bytes s.cfg⟩, ⟨.tb1, fR.bytes s.cfg⟩] ∧
      (s.bothSent q fL fR).ctx0 = (wholeFrame s.cfg fL).consume ∧
      (s.bothSent q fL fR).ctx1 = (wholeFrame s.cfg fR).consume ∧ (s.bothSent q fL fR).handedOff = [.tb0, .tb1] := by
  refine ⟨?_, rfl, rfl, rfl⟩
  show s.xferLog ++ [⟨.tb0, (wholeFrame s.cfg fL).frameBytes _⟩] ++ [⟨.tb1, (wholeFrame s.cfg fR).frameBytes _⟩] = _
  rw [wholeFrame_frameBytes, wholeFrame_frameBytes, List.append_assoc]
  rfl

theorem State.oneSent_sent (s : State) (q : Nat) (f : FrameArgs) :
    (s.oneSent q f).xferLog = s.xferLog ++ [⟨.tb0, f.bytes s.cfg⟩] ∧
      (s.oneSent q f).ctx0 = (wholeFrame s.cfg f).consume ∧ (s.oneSent q f).ctx1 = s.ctx1 ∧
      (s.oneSent q f).handedOff = [.tb0] := by
  refine ⟨?_, rfl, rfl, rfl⟩
  show s.xferLog ++ [⟨.tb0, (wholeFrame s.cfg f).frameBytes _⟩] = _
  rw [wholeFrame_frameBytes]

/-- A context that handed off a whole frame: `Consumed`, its cursor and selector those of the frame (R105). -/
theorem consume_wholeFrame (c : Config) (f : FrameArgs) :
    (wholeFrame c f).consume.stage = .consumed ∧
      (wholeFrame c f).consume.cursor = frameLength c (pixelCount f.p) ∧
      (wholeFrame c f).consume.disp = some f.d ∧ (wholeFrame c f).consume.err = none ∧
      ∀ a, (wholeFrame c f).consume.tb.read a = none :=
  ⟨rfl, wholeFrame_cursor c f, rfl, rfl, Memory.read_nil⟩

/-- Neither context is mid-frame after the ACQUIRE, nor context 1 after the FRAME of context 0. -/
theorem midFrame_granted {s : State} (q : Nat) (hm : s.anyMidFrame = false) (k : Context) :
    ((s.granted q).ctx .tb0).stage.midFrame = false ∧
      (((s.granted q).wroteCtx q .tb0 k).ctx .tb1).stage.midFrame = false := by
  have hmid := s.anyMidFrame_eq_false_iff.mp hm
  exact ⟨hmid .tb0, hmid .tb1⟩

/-- SEND where every check passes (R107). -/
theorem execSend_ok {s : State} {q : Nat} {v : List U8} {dL dR : U8} (hv : v.length = virtualLength s.cfg)
    (ha : s.transportAttached = true) (hb : s.busy = false) (hm : s.anyMidFrame = false)
    (hL : (halfFrame s.cfg dL (leftHalf s.cfg v)).legal s.cfg)
    (hR : (halfFrame s.cfg dR (rightHalf s.cfg v)).legal s.cfg)
    (hfits : ∀ b, frameLength s.cfg (halfPixels s.cfg) ≤ s.cfg.capacity b) :
    execSend q v dL dR s =
      .next (s.bothSent q (halfFrame s.cfg dL (leftHalf s.cfg v)) (halfFrame s.cfg dR (rightHalf s.cfg v))) := by
  obtain ⟨hcountL, hcountR⟩ := pixelCount_half hv
  have hfitsL : frameLength s.cfg (pixelCount (leftHalf s.cfg v)) ≤ s.cfg.capacity .tb0 := hcountL ▸ hfits .tb0
  have hfitsR : frameLength s.cfg (pixelCount (rightHalf s.cfg v)) ≤ s.cfg.capacity .tb1 := hcountR ▸ hfits .tb1
  obtain ⟨hm0, hm1⟩ := midFrame_granted q hm (wholeFrame s.cfg (halfFrame s.cfg dL (leftHalf s.cfg v)))
  have hfirst := clearFrame_ok (s.granted_holdsSession q) hm0 hL hfitsL
  have hsecond := clearFrame_ok (q := q) ((State.wroteCtx_holdsSession ..).trans (s.granted_holdsSession q)) hm1 hR
    hfitsR
  rw [execSend_granted hv ha hb, hfirst, ifOk_wroteCtx, State.wroteCtx_cfg, State.granted_cfg, hsecond, ifOk_wroteCtx]
  exact send_ends hfitsL hfitsR

/-- Settles O24, field by field of the state that a SEND leaves where every check passes. -/
theorem sendSendsBothHalves : Obligations.SendSendsBothHalves := by
  intro s q v dL dR hv ha hb hm hdL hdR hr hfits
  obtain ⟨hlenL, hlenR, -⟩ := halvesAreTheColumns s.cfg v hv
  obtain ⟨hcountL, hcountR⟩ := pixelCount_half hv
  have hend := execSend_ok (q := q) hv ha hb hm (halfFrame_legal hdL hlenL hr) (halfFrame_legal hdR hlenR hr) hfits
  refine ⟨_, (exec_send q v dL dR s).trans hend, rfl, ?_⟩
  obtain ⟨hcfg, hatt, herrlog, hrefused, hpending⟩ :=
    s.sameBlock_bothSent q (halfFrame s.cfg dL (leftHalf s.cfg v)) (halfFrame s.cfg dR (rightHalf s.cfg v))
  obtain ⟨hlog, hctx0, hctx1, hhanded⟩ :=
    s.bothSent_sent q (halfFrame s.cfg dL (leftHalf s.cfg v)) (halfFrame s.cfg dR (rightHalf s.cfg v))
  obtain ⟨hst0, hcur0, hdisp0, herr0, hread0⟩ := consume_wholeFrame s.cfg (halfFrame s.cfg dL (leftHalf s.cfg v))
  obtain ⟨hst1, hcur1, hdisp1, herr1, hread1⟩ := consume_wholeFrame s.cfg (halfFrame s.cfg dR (rightHalf s.cfg v))
  have hcount0 : pixelCount (halfFrame s.cfg dL (leftHalf s.cfg v)).p = halfPixels s.cfg := hcountL
  have hcount1 : pixelCount (halfFrame s.cfg dR (rightHalf s.cfg v)).p = halfPixels s.cfg := hcountR
  rw [hcount0] at hcur0
  rw [hcount1] at hcur1
  rw [hctx0, hctx1]
  refine ⟨hlog, rfl, rfl, fun b => ?_, hdisp0, hdisp1, hcfg, hatt, herrlog, hrefused, hhanded,
    hpending⟩
  cases b with
  | tb0 =>
    rw [State.ctx_tb0, hctx0]
    exact ⟨hst0, hcur0, herr0, hread0⟩
  | tb1 =>
    rw [State.ctx_tb1, hctx1]
    exact ⟨hst1, hcur1, herr1, hread1⟩

/-- SEND1 where every check passes (R109). -/
theorem execSend1_ok {s : State} {q : Nat} {f : FrameArgs} (ha : s.transportAttached = true) (hb : s.busy = false)
    (hm : s.anyMidFrame = false) (hf : f.legal s.cfg) (hfits : frameLength s.cfg (pixelCount f.p) ≤ s.cfg.capacity0) :
    execSend1 q f.p f.d f.ox f.oy f.w f.h s = .next (s.oneSent q f) := by
  obtain ⟨hm0, hm1⟩ := midFrame_granted q hm (wholeFrame s.cfg f)
  have hframe := clearFrame_ok (s.granted_holdsSession q) hm0 hf hfits
  rw [execSend1_granted ha hb, hframe, ifOk_wroteCtx]
  exact send1_ends hm1 hfits

/-- Settles O25, field by field of the state that a SEND1 leaves where every check passes. -/
theorem sendOneSendsOneFrame : Obligations.SendOneSendsOneFrame := by
  intro s q f ha hb hm hf hfits
  refine ⟨_, (exec_send1 ..).trans (execSend1_ok ha hb hm hf hfits), rfl, ?_⟩
  obtain ⟨hcfg, hatt, herrlog, hrefused, hpending⟩ := s.sameBlock_oneSent q f
  obtain ⟨hlog, hctx0, hctx1, hhanded⟩ := s.oneSent_sent q f
  obtain ⟨hst, hcur, hdisp, herr, hread⟩ := consume_wholeFrame s.cfg f
  rw [hctx0, hctx1]
  exact ⟨hlog, rfl, rfl, hst, hcur, hdisp, herr, hread, rfl, hcfg, hatt, herrlog, hrefused, hhanded, hpending⟩

end Sys2Proof.Machine
end

/-! ### Sends that fail, and what an error leaves (42_session_control.md R106 to R111, 60_exceptions.md R121) -/

section
namespace Sys2Proof.Machine

open Sys2Proof.Claims

/-! #### After an error there is nothing left to send -/

/-- The error `e` of an instruction was raised by a command on some context, in a state with the logs of `s`. -/
def FailsWith (s t : State) (e : ErrorKind) : Prop :=
  ∃ b cmd u, AbortedBy b e cmd u t ∧ u.xferLog = s.xferLog ∧ u.errLog = s.errLog

theorem FailsWith.of_logs {s s' t : State} {e : ErrorKind} (h : FailsWith s' t e) (hx : s'.xferLog = s.xferLog)
    (he : s'.errLog = s.errLog) : FailsWith s t e := by
  obtain ⟨b, cmd, u, habort, hx', he'⟩ := h
  exact ⟨b, cmd, u, habort, hx'.trans hx, he'.trans he⟩

/-- What is left after an error: no transport write, one abort in the log, the session released. -/
theorem FailsWith.left {s t : State} {e : ErrorKind} (h : FailsWith s t e) :
    t.xferLog = s.xferLog ∧ t.busy = false ∧ t.owner = none ∧ ∃ x, t.errLog = s.errLog ++ [x] ∧ x.error = e := by
  obtain ⟨b, cmd, u, habort, hx, he⟩ := h
  obtain ⟨-, -, hlog, -⟩ := habort.kept
  exact ⟨hlog.trans hx, habort.released.1, habort.released.2, _, he ▸ habort.logged, rfl⟩

/-- An abort leaves no context `Closed` (60_exceptions.md R121). -/
theorem FailsWith.not_closed {s t : State} {e : ErrorKind} (h : FailsWith s t e) (b : BufId) :
    (t.ctx b).stage ≠ .closed := by
  obtain ⟨b', cmd, u, habort, -⟩ := h
  rcases eq_or_eq_other b' b with rfl | rfl
  · rw [habort.stage]
    decide
  · rw [habort.otherStage]
    cases (u.ctx (other b')).stage <;> decide

section
variable {q : Nat} {b : BufId} {s t : State} {e : ErrorKind}

theorem Encoded.failsWith {R W : Context → Prop} (h : Encoded q b R W s t) (he : t.lastResult = some (.err e)) :
    FailsWith s t e := by
  cases h with
  | refused r hq => cases he
  | raised k e' cmd hq hk =>
    cases he
    exact ⟨b, cmd, s.setCtx b k, abortedBy_abort _ b e cmd _, by simp, by simp⟩
  | wrote k hq hk => cases he

/-- An encoder command that answers `OK` leaves the logs as they are. -/
theorem Encoded.logs_of_ok {R W : Context → Prop} (h : Encoded q b R W s t) (hok : t.lastResult = some .ok) :
    t.xferLog = s.xferLog ∧ t.errLog = s.errLog := by
  cases h with
  | refused r hq => cases hok
  | raised k e' cmd hq hk => cases hok
  | wrote k hq hk => exact ⟨by simp, by simp⟩

theorem execHandoff_failsWith (h : execHandoff q b s = .next t) (he : t.lastResult = some (.err e)) :
    FailsWith s t e := by
  rcases execHandoff_eq_next h with ⟨-, r, rfl⟩ | ⟨-, rfl⟩ | ⟨-, -, -, rfl⟩
  · cases he
  · cases he
    exact ⟨b, .handoff, s, abortedBy_abort s b _ _ _, rfl, rfl⟩
  · cases he

theorem execAcquire_not_err (h : execAcquire q s = .next t) : t.lastResult ≠ some (.err e) := by
  rcases execAcquire_eq_next h with ⟨rfl, -⟩ | ⟨rfl, -⟩
  · exact nofun
  · exact nofun

theorem execRelease_not_err (h : execRelease q s = .next t) : t.lastResult ≠ some (.err e) := by
  rcases execRelease_eq_next h with ⟨r, rfl⟩ | ⟨-, -, rfl⟩
  · exact nofun
  · exact nofun

theorem execClear_not_err (h : execClear q b s = .next t) : t.lastResult ≠ some (.err e) := by
  rcases execClear_eq_next h with ⟨r, rfl⟩ | ⟨-, -, rfl⟩
  · exact nofun
  · exact nofun

/-- Whatever CLEAR answers, it leaves the logs to the FRAME after it. -/
theorem clearFrame_cases {f : FrameArgs} (h : clearFrame q b f s = .next t) :
    ∃ u, (u.xferLog = s.xferLog ∧ u.errLog = s.errLog) ∧ ∃ R W, Encoded q b R W u t := by
  obtain ⟨u, hu, h⟩ := andThen_eq_next h
  refine ⟨u, ?_, _, _, execFrame_encoded h⟩
  rcases execClear_eq_next hu with ⟨r, rfl⟩ | ⟨-, -, rfl⟩
  · exact ⟨rfl, rfl⟩
  · exact ⟨by simp, by simp⟩

theorem clearFrame_failsWith {f : FrameArgs} (h : clearFrame q b f s = .next t)
    (he : t.lastResult = some (.err e)) : FailsWith s t e := by
  obtain ⟨u, ⟨hx, herr⟩, R, W, henc⟩ := clearFrame_cases h
  exact (henc.failsWith he).of_logs hx herr

theorem clearFrame_logs_of_ok {f : FrameArgs} (h : clearFrame q b f s = .next t) (hok : t.lastResult = some .ok) :
    t.xferLog = s.xferLog ∧ t.errLog = s.errLog := by
  obtain ⟨u, ⟨hx, herr⟩, R, W, henc⟩ := clearFrame_cases h
  obtain ⟨hx', herr'⟩ := henc.logs_of_ok hok
  exact ⟨hx'.trans hx, herr'.trans herr⟩

end

/-- A send answers an error only where one of its FRAMEs does; so it stops before its HANDOFFs. -/
theorem execSend_failsWith {q : Nat} {v : List U8} {dL dR : U8} {s t : State} {e : ErrorKind}
    (h : execSend q v dL dR s = .next t) (he : t.lastResult = some (.err e)) : FailsWith s t e := by
  by_cases hv : v.length = virtualLength s.cfg
  · rcases Bool.eq_false_or_eq_true s.transportAttached with ha | ha
    · rcases Bool.eq_false_or_eq_true s.busy with hb | hb
      · rw [execSend_dropped hv (.inr hb)] at h
        cases h
        cases he
      · rw [execSend_granted hv ha hb] at h
        obtain ⟨u, hu, ⟨hok, h⟩ | ⟨-, rfl⟩⟩ := ifOk_eq_next h
        · obtain ⟨hx, herr⟩ := clearFrame_logs_of_ok hu hok
          obtain ⟨u', hu', ⟨-, h⟩ | ⟨-, rfl⟩⟩ := ifOk_eq_next h
          · obtain ⟨_, -, h⟩ := andThen_eq_next h
            obtain ⟨_, -, h⟩ := andThen_eq_next h
            rw [State.lastResult, andThen_finish_reply h] at he
            cases he
          · exact (clearFrame_failsWith hu' he).of_logs hx herr
        · exact (clearFrame_failsWith hu he).of_logs rfl rfl
    · rw [execSend_dropped hv (.inl ha)] at h
      cases h
      cases he
  · rw [execSend_badSendInput hv] at h
    cases h
    cases he

theorem execSend1_failsWith {q : Nat} {f : FrameArgs} {s t : State} {e : ErrorKind}
    (h : execSend1 q f.p f.d f.ox f.oy f.w f.h s = .next t) (he : t.lastResult = some (.err e)) :
    FailsWith s t e := by
  rcases Bool.eq_false_or_eq_true s.transportAttached with ha | ha
  · rcases Bool.eq_false_or_eq_true s.busy with hb | hb
    · rw [execSend1_dropped (.inr hb)] at h
      cases h
      cases he
    · rw [execSend1_granted ha hb] at h
      obtain ⟨u, hu, ⟨-, h⟩ | ⟨-, rfl⟩⟩ := ifOk_eq_next h
      · obtain ⟨_, -, h⟩ := andThen_eq_next h
        rw [State.lastResult, andThen_finish_reply h] at he
        cases he
      · exact (clearFrame_failsWith hu he).of_logs rfl rfl
  · rw [execSend1_dropped (.inl ha)] at h
    cases h
    cases he

/-- Whatever instruction answers an error, it was raised by one command, before any transport write. -/
theorem exec_failsWith {i : Instr} {s t : State} {e : ErrorKind} (h : exec i s = .next t)
    (he : t.lastResult = some (.err e)) : FailsWith s t e := by
  cases i with
  | acquire q => exact absurd he (execAcquire_not_err h)
  | release q => exact absurd he (execRelease_not_err h)
  | clear q b => exact absurd he (execClear_not_err h)
  | start q b d ox oy w hh => exact (execStart_encoded h).failsWith he
  | image q b p => exact (execImage_encoded h).failsWith he
  | blit q b => exact (execBlit_encoded h).failsWith he
  | endCmd q b d => exact (execEnd_encoded h).failsWith he
  | handoff q b => exact execHandoff_failsWith h he
  | quant q r g bl a => cases h; cases he
  | frame q b d ox oy w hh p => exact (execFrame_encoded (f := ⟨d, ox, oy, w, hh, p⟩) h).failsWith he
  | send q v dL dR => exact execSend_failsWith h he
  | send1 q p d ox oy w hh => exact execSend1_failsWith (f := ⟨d, ox, oy, w, hh, p⟩) h he
  | _ => cases h

theorem lastResult_of_reply {t : State} {q : Nat} {r : Result} (h : t.reply = some ⟨q, r⟩) : t.lastResult = some r := by
  rw [State.lastResult, h]
  rfl

/-- Settles O57: the error was raised by one command, whose abort leaves nothing `Closed`. -/
theorem errorLeavesNothingToSend : Obligations.ErrorLeavesNothingToSend := by
  intro s t i q e h he
  have hfails := exec_failsWith h (lastResult_of_reply he)
  obtain ⟨hx, hb, ho, -⟩ := hfails.left
  exact ⟨hx, hfails.not_closed, hb, ho⟩

/-- Settles O29: the error was raised by one command of the send, before its HANDOFFs. -/
theorem failedSendWritesNothing : Obligations.FailedSendWritesNothing :=
  fun _ _ _ _ _ _ h he => (exec_failsWith h (lastResult_of_reply he)).left

/-! #### What a send can answer where no frame is half written outside a session (60_exceptions.md R127) -/

/-- The state after an error in context `b`, which was `k` when the error was raised (60_exceptions.md R121). -/
def State.raisedIn (s : State) (q : Nat) (b : BufId) (k : Context) (e : ErrorKind) (cmd : CommandName) : State :=
  { (s.setCtx b k).abort b e cmd with reply := some ⟨q, .err e⟩ }

theorem clearFrame_eq_next {q : Nat} {b : BufId} {f : FrameArgs} {s t : State} (hq : s.holdsSession q = true)
    (hm : (s.ctx b).stage.midFrame = false) (h : clearFrame q b f s = .next t) :
    (∃ k e cmd, k.err = none ∧ t = s.raisedIn q b k e cmd) ∨
      (frameLength s.cfg (pixelCount f.p) ≤ s.cfg.capacity b ∧ t = s.wroteCtx q b (wholeFrame s.cfg f)) := by
  cases clearFrame_encoded hq hm h with
  | refused r hq' => rw [hq] at hq'; cases hq'
  | raised k e cmd _ hk => exact .inl ⟨k, e, cmd, hk, rfl⟩
  | wrote k _ hk =>
    obtain ⟨-, hfits, rfl⟩ := hk
    exact .inr ⟨hfits, rfl⟩

/-- The state of a SEND after its first FRAME. -/
def State.firstFramed (s : State) (q : Nat) (fL : FrameArgs) : State :=
  (s.granted q).wroteCtx q .tb0 (wholeFrame s.cfg fL)

@[simp] theorem State.firstFramed_holdsSession (s : State) (q : Nat) (fL : FrameArgs) :
    (s.firstFramed q fL).holdsSession q = true :=
  (State.wroteCtx_holdsSession ..).trans (s.granted_holdsSession q)

/-- How a SEND of the frames `fL` and `fR` ends after its ACQUIRE was granted: with the error of its first FRAME, with
that of its second, or with both frames sent. -/
inductive SendEnds (q : Nat) (fL fR : FrameArgs) (s : State) : State → Prop
  | failedFirst (k : Context) (e : ErrorKind) (cmd : CommandName) (hk : k.err = none)
      (h : clearFrame q .tb0 fL (s.granted q) = .next ((s.granted q).raisedIn q .tb0 k e cmd)) :
      SendEnds q fL fR s ((s.granted q).raisedIn q .tb0 k e cmd)
  | failedSecond (k : Context) (e : ErrorKind) (cmd : CommandName) (hk : k.err = none)
      (hL : clearFrame q .tb0 fL (s.granted q) = .next (s.firstFramed q fL))
      (h : clearFrame q .tb1 fR (s.firstFramed q fL) = .next ((s.firstFramed q fL).raisedIn q .tb1 k e cmd)) :
      SendEnds q fL fR s ((s.firstFramed q fL).raisedIn q .tb1 k e cmd)
  | sent (hL : clearFrame q .tb0 fL (s.granted q) = .next (s.firstFramed q fL))
      (hR : clearFrame q .tb1 fR (s.firstFramed q fL) = .next (s.bothFramed q fL fR))
      (hfitsL : frameLength s.cfg (pixelCount fL.p) ≤ s.cfg.capacity .tb0)
      (hfitsR : frameLength s.cfg (pixelCount fR.p) ≤ s.cfg.capacity .tb1) : SendEnds q fL fR s (s.bothSent q fL fR)

/-- How a SEND1 of the frame `f` ends after its ACQUIRE was granted. -/
inductive Send1Ends (q : Nat) (f : FrameArgs) (s : State) : State → Prop
  | failed (k : Context) (e : ErrorKind) (cmd : CommandName) (hk : k.err = none)
      (h : clearFrame q .tb0 f (s.granted q) = .next ((s.granted q).raisedIn q .tb0 k e cmd)) :
      Send1Ends q f s ((s.granted q).raisedIn q .tb0 k e cmd)
  | sent (h : clearFrame q .tb0 f (s.granted q) = .next (s.firstFramed q f))
      (hfits : frameLength s.cfg (pixelCount f.p) ≤ s.cfg.capacity .tb0) : Send1Ends q f s (s.oneSent q f)

/-- SEND of a bitmap of the right size: dropped, or one of the ends of a granted SEND. -/
theorem execSend_eq_next {q : Nat} {v : List U8} {dL dR : U8} {s t : State} (hv : v.length = virtualLength s.cfg)
    (hquiet : s.busy = false → s.anyMidFrame = false) (h : execSend q v dL dR s = .next t) :
    (t = { s with reply := some ⟨q, .dropped⟩ } ∧ (s.transportAttached = false ∨ s.busy = true)) ∨
      (s.transportAttached = true ∧ s.busy = false ∧
        SendEnds q (halfFrame s.cfg dL (leftHalf s.cfg v)) (halfFrame s.cfg dR (rightHalf s.cfg v)) s t) := by
  by_cases hdrop : s.transportAttached = false ∨ s.busy = true
  · rw [execSend_dropped hv hdrop] at h
    cases h
    exact .inl ⟨rfl, hdrop⟩
  · rw [not_or, Bool.not_eq_false, Bool.not_eq_true] at hdrop
    obtain ⟨ha, hb⟩ := hdrop
    refine .inr ⟨ha, hb, ?_⟩
    obtain ⟨hm0, hm1⟩ := midFrame_granted q (hquiet hb) (wholeFrame s.cfg (halfFrame s.cfg dL (leftHalf s.cfg v)))
    rw [execSend_granted hv ha hb] at h
    obtain ⟨u, hu, hcont⟩ := ifOk_eq_next h
    rcases clearFrame_eq_next (s.granted_holdsSession q) hm0 hu with ⟨k, e, cmd, hk, rfl⟩ | ⟨hfitsL, rfl⟩
    · rcases hcont with ⟨hok, -⟩ | ⟨-, rfl⟩
      · cases hok
      · exact .failedFirst k e cmd hk hu
    · rcases hcont with ⟨-, h⟩ | ⟨hok, -⟩
      · rw [State.wroteCtx_cfg, State.granted_cfg] at h
        obtain ⟨u, hu', hcont⟩ := ifOk_eq_next h
        rcases clearFrame_eq_next (State.firstFramed_holdsSession ..) hm1 hu' with ⟨k, e, cmd, hk, rfl⟩ | ⟨hfitsR, rfl⟩
        · rcases hcont with ⟨hok, -⟩ | ⟨-, rfl⟩
          · cases hok
          · exact .failedSecond k e cmd hk hu hu'
        · rcases hcont with ⟨-, h⟩ | ⟨hok, -⟩
          · cases h.symm.trans (send_ends hfitsL hfitsR)
            exact .sent hu hu' hfitsL hfitsR
          · exact absurd (State.wroteCtx_lastResult ..) hok
      · exact absurd (State.wroteCtx_lastResult ..) hok

/-- SEND1: dropped, or one of the ends of a granted SEND1. -/
theorem execSend1_eq_next {q : Nat} {f : FrameArgs} {s t : State} (hquiet : s.busy = false → s.anyMidFrame = false)
    (h : execSend1 q f.p f.d f.ox f.oy f.w f.h s = .next t) :
    (t = { s with reply := some ⟨q, .dropped⟩ } ∧ (s.transportAttached = false ∨ s.busy = true)) ∨
      (s.transportAttached = true ∧ s.busy = false ∧ s.anyMidFrame = false ∧ Send1Ends q f s t) := by
  by_cases hdrop : s.transportAttached = false ∨ s.busy = true
  · rw [execSend1_dropped hdrop] at h
    cases h
    exact .inl ⟨rfl, hdrop⟩
  · rw [not_or, Bool.not_eq_false, Bool.not_eq_true] at hdrop
    obtain ⟨ha, hb⟩ := hdrop
    refine .inr ⟨ha, hb, hquiet hb, ?_⟩
    obtain ⟨hm0, hm1⟩ := midFrame_granted q (hquiet hb) (wholeFrame s.cfg f)
    rw [execSend1_granted ha hb] at h
    obtain ⟨u, hu, hcont⟩ := ifOk_eq_next h
    rcases clearFrame_eq_next (s.granted_holdsSession q) hm0 hu with ⟨k, e, cmd, hk, rfl⟩ | ⟨hfits, rfl⟩
    · rcases hcont with ⟨hok, -⟩ | ⟨-, rfl⟩
      · cases hok
      · exact .failed k e cmd hk hu
    · rcases hcont with ⟨-, h⟩ | ⟨hok, -⟩
      · cases h.symm.trans (send1_ends hm1 hfits)
        exact .sent hu hfits
      · exact absurd (State.wroteCtx_lastResult ..) hok

/-- However a granted SEND ends, its session is released (R110). -/
theorem SendEnds.released {q : Nat} {fL fR : FrameArgs} {s t : State} (h : SendEnds q fL fR s t) :
    t.busy = false ∧ t.owner = none := by
  cases h <;> exact ⟨rfl, rfl⟩

theorem Send1Ends.released {q : Nat} {f : FrameArgs} {s t : State} (h : Send1Ends q f s t) :
    t.busy = false ∧ t.owner = none := by
  cases h <;> exact ⟨rfl, rfl⟩

/-- Settles O28: a dropped or refused send leaves the session as it was, a granted one releases its own. -/
theorem sendNeverKeepsItsSession : Obligations.SendNeverKeepsItsSession := by
  intro s t i hquiet hi h
  refine ⟨fun hb => ?_, fun hb => ?_⟩
  · rcases hi with ⟨q, v, dL, dR, rfl⟩ | ⟨q, p, d, ox, oy, w, hh, rfl⟩
    · rw [exec_send] at h
      by_cases hv : v.length = virtualLength s.cfg
      · rcases execSend_eq_next hv hquiet h with ⟨rfl, -⟩ | ⟨-, -, hends⟩
        · exact ⟨hb, .inl rfl⟩
        · exact ⟨hends.released.1, .inr hends.released.2⟩
      · rw [execSend_badSendInput hv] at h
        cases h
        exact ⟨hb, .inl rfl⟩
    · rcases execSend1_eq_next (f := ⟨d, ox, oy, w, hh, p⟩) hquiet h with ⟨rfl, -⟩ | ⟨-, -, -, hends⟩
      · exact ⟨hb, .inl rfl⟩
      · exact ⟨hends.released.1, .inr hends.released.2⟩
  · obtain ⟨y, r, rfl, -⟩ := send_busy hb hi h
    exact ⟨hb, rfl⟩

/-! #### What a failed send leaves -/

/-- The failing context after an abort, where it had no error before. -/
theorem raisedIn_ctx (s : State) (q : Nat) (b : BufId) {k : Context} (e : ErrorKind) (cmd : CommandName)
    (hk : k.err = none) :
    ((s.raisedIn q b k e cmd).ctx b).stage = .aborted ∧ ((s.raisedIn q b k e cmd).ctx b).err = some e := by
  have habort := abortedBy_abort (s.setCtx b k) b e cmd (some ⟨q, .err e⟩)
  refine ⟨habort.stage, habort.firstErrorKept.trans ?_⟩
  rw [State.setCtx_ctx, if_pos hk]

theorem raisedIn_ctx_other (s : State) (q : Nat) (b : BufId) (k : Context) (e : ErrorKind) (cmd : CommandName) :
    (s.raisedIn q b k e cmd).ctx (other b) = (s.ctx (other b)).abortOther := by
  simp only [State.raisedIn, State.ctx_reply, State.abort_ctx_other, State.setCtx_ctx_other]

theorem raisedIn_errLog (s : State) (q : Nat) (b : BufId) (k : Context) (e : ErrorKind) (cmd : CommandName) :
    (s.raisedIn q b k e cmd).errLog = s.errLog ++ [⟨b, e, cmd⟩] := by
  simp only [State.raisedIn, State.abort_errLog, State.setCtx_errLog]

theorem failedInFirst_raisedIn {s : State} {q : Nat} {k : Context} {e e' : ErrorKind} {cmd : CommandName}
    (hk : k.err = none) (he : ((s.granted q).raisedIn q .tb0 k e cmd).reply = some ⟨q, .err e'⟩) :
    FailedInFirst s ((s.granted q).raisedIn q .tb0 k e cmd) e' := by
  cases he
  obtain ⟨hstage, herr⟩ := raisedIn_ctx (s.granted q) q .tb0 e cmd hk
  exact ⟨⟨cmd, raisedIn_errLog ..⟩, hstage, herr, raisedIn_ctx_other (s.granted q) q .tb0 k e cmd⟩

/-- Settles O54, end by end. -/
theorem failedSendAbortsItsContexts : Obligations.FailedSendAbortsItsContexts := by
  intro s t q e hquiet he
  refine ⟨fun v dL dR h => ?_, fun f h => ?_⟩
  · rw [exec_send] at h
    by_cases hv : v.length = virtualLength s.cfg
    · rcases execSend_eq_next hv hquiet h with ⟨rfl, -⟩ | ⟨-, -, hends⟩
      · cases he
      · cases hends with
        | failedFirst k e' cmd hk _ => exact .inl (failedInFirst_raisedIn hk he)
        | failedSecond k e' cmd hk _ _ =>
          cases he
          obtain ⟨hstage, herr⟩ :=
            raisedIn_ctx (s.firstFramed q (halfFrame s.cfg dL (leftHalf s.cfg v))) q .tb1 e cmd hk
          have hctx0 := raisedIn_ctx_other (s.firstFramed q (halfFrame s.cfg dL (leftHalf s.cfg v))) q .tb1 k e cmd
          replace hctx0 : _ = (wholeFrame s.cfg (halfFrame s.cfg dL (leftHalf s.cfg v))).abortOther := hctx0
          rw [other_tb1, State.ctx_tb0] at hctx0
          have hcount : pixelCount (halfFrame s.cfg dL (leftHalf s.cfg v)).p = halfPixels s.cfg :=
            (pixelCount_half hv).1
          refine .inr ⟨⟨cmd, raisedIn_errLog ..⟩, hstage, herr, ?_⟩
          rw [hctx0, Context.abortOther_stage, Context.abortOther_err, Context.abortOther_disp,
            Context.abortOther_cursor, Context.abortOther_tb, wholeFrame_cursor, hcount]
          exact ⟨rfl, rfl, rfl, rfl, wholeFrame_read s.cfg _⟩
        | sent => cases he
    · rw [execSend_badSendInput hv] at h
      cases h
      cases he
  · rw [exec_send1] at h
    rcases execSend1_eq_next hquiet h with ⟨rfl, -⟩ | ⟨-, -, -, hends⟩
    · cases he
    · cases hends with
      | failed k e' cmd hk _ => exact failedInFirst_raisedIn hk he
      | sent => cases he

/-! #### R106: at most one transport write per context in a session -/

/-- How many transport writes of a buffer there can have been when the session ends: those made, and one more unless
the session handed the buffer off already (log 20). -/
def State.sendBound (s : State) (b : BufId) : Nat :=
  s.sentCount b + if b ∈ s.handedOff then 0 else 1

theorem State.sendBound_congr {s t : State} (hx : t.xferLog = s.xferLog) (hh : t.handedOff = s.handedOff) (b : BufId) :
    t.sendBound b = s.sendBound b := by
  rw [State.sendBound, State.sendBound, State.sentCount_congr hx, hh]

/-- A HANDOFF takes the one write that its context had left. -/
theorem State.sendBound_handedOffNext {s : State} {b : BufId} (q : Nat) (hn : b ∉ s.handedOff) (b' : BufId) :
    (s.handedOffNext q b).sendBound b' = s.sendBound b' := by
  have hcount : (s.handedOffNext q b).sentCount b' = s.sentCount b' + if b = b' then 1 else 0 :=
    State.sentCount_append rfl b'
  have hh : (s.handedOffNext q b).handedOff = s.handedOff ++ [b] := rfl
  rw [State.sendBound, State.sendBound, hcount, hh]
  rcases eq_or_eq_other b b' with rfl | rfl
  · simp [hn]
  · simp

/-- No instruction inside a session adds to the bound: ACQUIRE, which would, is dropped. -/
theorem exec_sendBound {i : Instr} {s t : State} (hb : s.busy = true) (h : exec i s = .next t) (b : BufId) :
    t.sendBound b = s.sendBound b := by
  cases i with
  | handoff q b0 =>
    rcases execHandoff_eq_next h with ⟨-, r, rfl⟩ | ⟨-, rfl⟩ | ⟨-, -, hn, rfl⟩
    · rfl
    · exact State.sendBound_congr (by simp) (by simp) b
    · exact State.sendBound_handedOffNext q hn b
  | frame q b0 d ox oy w hh p =>
    obtain ⟨hx, hho⟩ := (execFrame_encoded (f := ⟨d, ox, oy, w, hh, p⟩) h).sent
    exact State.sendBound_congr hx hho b
  | send q v dL dR =>
    obtain ⟨y, r, rfl, -⟩ := send_busy hb (.inl ⟨q, v, dL, dR, rfl⟩) h
    rfl
  | send1 q p d ox oy w hh =>
    obtain ⟨y, r, rfl, -⟩ := send_busy hb (.inr ⟨q, p, d, ox, oy, w, hh, rfl⟩) h
    rfl
  | _ =>
    obtain ⟨hx, hho⟩ := sent_of_not_handoff rfl (by rintro _ _ ⟨⟩) h
    exact State.sendBound_congr hx (hho hb) b

theorem SessionStep.sendBound {s t : State} (h : SessionStep s t) (b : BufId) : t.sendBound b = s.sendBound b := by
  obtain ⟨hb, hstep⟩ := h
  cases hp : s.pending with
  | nil =>
    rw [step_idle hp] at hstep
    cases hstep
    rfl
  | cons input rest =>
    cases input with
    | attach on =>
      rw [step_attach hp] at hstep
      cases hstep
      rfl
    | present tr =>
      cases hi : presented s.cfg tr with
      | error r => rw [step_not_presented hp hi] at hstep; cases hstep
      | ok i =>
        rw [step_presented hp hi] at hstep
        exact exec_sendBound (s := { s with pending := rest }) hb hstep b

/-- Every transport write is of one buffer or of the other. -/
theorem length_eq_sentCount (s : State) : s.xferLog.length = s.sentCount .tb0 + s.sentCount .tb1 := by
  rw [State.sentCount, State.sentCount]
  induction s.xferLog with
  | nil => rfl
  | cons x xs ih =>
    obtain ⟨b, bytes⟩ := x
    cases b <;> simp <;> omega

theorem State.sentCount_le_sendBound (s : State) (b : BufId) : s.sentCount b ≤ s.sendBound b :=
  Nat.le_add_right _ _

theorem State.sendBound_le (s : State) (b : BufId) : s.sendBound b ≤ s.sentCount b + 1 := by
  rw [State.sendBound]
  split <;> omega

/-- Settles O56: the bound of each buffer stays along the run. -/
theorem sessionWritesOncePerContext : Obligations.SessionWritesOncePerContext := by
  intro s t h
  have hbound : ∀ b, t.sendBound b = s.sendBound b := by
    intro b
    induction h with
    | refl => rfl
    | tail _ hstep ih => exact (hstep.sendBound b).trans ih
  have hcount : ∀ b, t.sentCount b ≤ s.sendBound b := fun b => (t.sentCount_le_sendBound b).trans_eq (hbound b)
  refine ⟨hcount, ?_⟩
  have h0 := hcount .tb0
  have h1 := hcount .tb1
  have h0' := s.sendBound_le .tb0
  have h1' := s.sendBound_le .tb1
  rw [length_eq_sentCount, length_eq_sentCount]
  omega

end Sys2Proof.Machine
end

/-! ### Pseudo-commands and the command sequences they stand for (log 4, log 11) -/

section
namespace Sys2Proof.Machine

open Sys2Proof.Claims

/-! #### Commands run in a row, with their results -/

/-- From `s` the commands of the list, executed in a row, return the results listed with them and reach `t`. -/
inductive Ran : State → List (Instr × Result) → State → Prop
  | nil (s : State) : Ran s [] s
  | cons {s u t : State} {i : Instr} {r : Result} {l : List (Instr × Result)} (h : exec i s = .next u)
      (hr : u.lastResult = some r) (hl : Ran u l t) : Ran s ((i, r) :: l) t

theorem Ran.append {s u t : State} {l l' : List (Instr × Result)} (h : Ran s l u) (h' : Ran u l' t) :
    Ran s (l ++ l') t := by
  induction h with
  | nil => exact h'
  | cons hx hr _ ih => exact .cons hx hr (ih h')

theorem Ran.one {s t : State} {i : Instr} {r : Result} (h : exec i s = .next t) (hr : t.lastResult = some r) :
    Ran s [(i, r)] t :=
  .cons h hr (.nil t)

theorem Ran.pending {s t : State} {l : List (Instr × Result)} (h : Ran s l t) : t.pending = s.pending := by
  induction h with
  | nil => rfl
  | cons hx _ _ ih => exact ih.trans (parametersAreNeverWritten _ _ _ hx).2.2.2

/-- A command of an existing requester can be presented (30_encoding.md R71). -/
theorem wf_of_requester {c : Config} {i : Instr} {q : Nat} (hi : i.requester = some q) (hq : q < c.numReq) :
    i.wf c = true := by
  cases i with
  | startOfData d ox oy w h => cases hi
  | transmitPixels rl colors => cases hi
  | blitTrigger => cases hi
  | endOfData d => cases hi
  | endOfDataPad d => cases hi
  | repeatRun => cases hi
  | skipRun => cases hi
  | _ => cases hi; exact decide_eq_true hq

/-- The pending inputs that present the commands of such a list. -/
def queueOf (l : List (Instr × Result)) : List HostInput :=
  asInputs (l.map Prod.fst)

/-- The queue reaches, by as many steps as the list has commands, what the commands reach in a row. -/
theorem Ran.run {s t : State} {l : List (Instr × Result)} {q : Nat} (h : Ran s l t)
    (hl : ∀ x ∈ l, x.1.requester = some q) (hq : q < s.cfg.numReq) (later : List HostInput) :
    Host.Core.run core l.length (s.withPending (queueOf l ++ later)) = .next (t.withPending later) := by
  induction h with
  | nil => rfl
  | cons hx _ _ ih =>
    rw [List.forall_mem_cons] at hl
    have hcfg := (parametersAreNeverWritten _ _ _ hx).1
    exact (run_command _ (wf_of_requester hl.1 hq) hx).trans (ih hl.2 (hcfg ▸ hq))

/-- After some of the commands the queue has reached a state in which the last of them returned its result. -/
theorem Ran.run_result {s t : State} {l : List (Instr × Result)} {q : Nat} (h : Ran s l t)
    (hl : ∀ x ∈ l, x.1.requester = some q) (hq : q < s.cfg.numReq) (later : List HostInput) {n : Nat} {i : Instr}
    {r : Result} (hn : l[n]? = some (i, r)) :
    ∃ u, Host.Core.run core (n + 1) (s.withPending (queueOf l ++ later)) = .next u ∧ u.lastResult = some r := by
  induction h generalizing n with
  | nil => cases hn
  | @cons s u t i' r' l hx hr hran ih =>
    rw [List.forall_mem_cons] at hl
    have hfirst : ∀ k, Host.Core.run core (k + 1) (s.withPending (queueOf ((i', r') :: l) ++ later)) =
        Host.Core.run core k (u.withPending (queueOf l ++ later)) := fun k =>
      run_command k (wf_of_requester hl.1 hq) hx
    rw [hfirst]
    cases n with
    | zero =>
      cases hn
      exact ⟨_, rfl, hr⟩
    | succ n => exact ih hl.2 ((parametersAreNeverWritten _ _ _ hx).1 ▸ hq) hn

/-- The commands of a list of which the first ones ran, put in the queue: the state they reach, and the result of each
before the last. -/
theorem Ran.reaches {s t : State} {l : List (Instr × Result)} {cmds rest : List Instr} {q : Nat} (h : Ran s l t)
    (hcmds : cmds = l.map Prod.fst ++ rest) (hreq : ∀ i ∈ cmds, i.requester = some q) (hq : q < s.cfg.numReq) :
    Host.Core.run core l.length { s with pending := asInputs cmds ++ s.pending } =
        .next { t with pending := asInputs (cmds.drop l.length) ++ t.pending } ∧
      ∀ j, 1 ≤ j → j < l.length → ∃ u : State,
        Host.Core.run core j { s with pending := asInputs cmds ++ s.pending } = .next u ∧
          u.lastResult = (l[j - 1]?).map Prod.snd := by
  have hl : ∀ x ∈ l, x.1.requester = some q := fun x hx =>
    hreq x.1 (hcmds ▸ List.mem_append_left _ (List.mem_map_of_mem hx))
  have hqueue : asInputs cmds ++ s.pending = queueOf l ++ (asInputs rest ++ s.pending) := by
    rw [hcmds, queueOf, asInputs, asInputs, asInputs, List.map_append, List.append_assoc]
  have hdrop : cmds.drop l.length = rest := by
    rw [hcmds, ← List.length_map (as := l) Prod.fst, List.drop_left]
  rw [hqueue, hdrop, h.pending]
  refine ⟨h.run hl hq _, fun j hj hlt => ?_⟩
  obtain ⟨n, rfl⟩ : ∃ n, j = n + 1 := ⟨j - 1, by omega⟩
  obtain ⟨u, hu, hr⟩ := h.run_result hl hq (asInputs rest ++ s.pending)
    (List.getElem?_eq_getElem (show n < l.length by omega))
  exact ⟨u, hu, by rw [hr, Nat.add_sub_cancel, List.getElem?_eq_getElem (by omega)]; rfl⟩

/-! #### FRAME (R96) -/

theorem Encoded.lastResult {q : Nat} {b : BufId} {R W : Context → Prop} {s t : State} (h : Encoded q b R W s t) :
    ∃ r, t.lastResult = some r := by
  cases h <;> exact ⟨_, rfl⟩

/-- A sequence that stops at the first result other than `OK`: its first command ran, and it stopped or went on. -/
theorem ifOk_ran {i : Instr} {s t : State} {f : State → Outcome}
    (hresult : ∀ u, exec i s = .next u → ∃ r, u.lastResult = some r) (h : ifOk (exec i s) f = .next t) :
    (∃ u, Ran s [(i, .ok)] u ∧ f u = .next t) ∨ (t.lastResult ≠ some .ok ∧ ∃ r, Ran s [(i, r)] t) := by
  obtain ⟨u, hu, ⟨hok, hnext⟩ | ⟨hok, rfl⟩⟩ := ifOk_eq_next h
  · exact .inl ⟨u, .one hu hok, hnext⟩
  · obtain ⟨r, hr⟩ := hresult _ hu
    exact .inr ⟨hok, r, .one hu hr⟩

/-- FRAME ran its first commands, each before the last with the result `OK`, and stopped before its fourth only at
another result. -/
theorem execFrame_ran {q : Nat} {b : BufId} {f : FrameArgs} {s t : State}
    (h : execFrame q b f.d f.ox f.oy f.w f.h f.p s = .next t) :
    ∃ l, Ran s l t ∧ l ≠ [] ∧ (∃ rest, frameCommands q b f = l.map Prod.fst ++ rest) ∧
      (∀ j, 1 ≤ j → j < l.length → (l[j - 1]?).map Prod.snd = some .ok) ∧
      (l.length < 4 → t.lastResult ≠ some .ok) := by
  rcases ifOk_ran (i := .start q b f.d f.ox f.oy f.w f.h) (fun u hu => (execStart_encoded hu).lastResult) h with
    ⟨u1, h1, h⟩ | ⟨hstop, r, h1⟩
  · rcases ifOk_ran (i := .image q b f.p) (fun u hu => (execImage_encoded hu).lastResult) h with
      ⟨u2, h2, h⟩ | ⟨hstop, r, h2⟩
    · rcases ifOk_ran (i := .blit q b) (fun u hu => (execBlit_encoded hu).lastResult) h with
        ⟨u3, h3, h⟩ | ⟨hstop, r, h3⟩
      · obtain ⟨r, hr⟩ := (execEnd_encoded h).lastResult
        refine ⟨_, h1.append (h2.append (h3.append (.one (i := .endCmd q b f.d) h hr))), nofun, ⟨[], rfl⟩,
          fun j hj hlt => ?_, fun hlt => absurd hlt (Nat.lt_irrefl 4)⟩
        replace hlt : j < 4 := hlt
        interval_cases j <;> rfl
      · refine ⟨_, h1.append (h2.append h3), nofun, ⟨_, rfl⟩, fun j hj hlt => ?_, fun _ => hstop⟩
        replace hlt : j < 3 := hlt
        interval_cases j <;> rfl
    · refine ⟨_, h1.append h2, nofun, ⟨_, rfl⟩, fun j hj hlt => ?_, fun _ => hstop⟩
      replace hlt : j < 2 := hlt
      interval_cases j
      rfl
  · refine ⟨_, h1, nofun, ⟨_, rfl⟩, fun j hj hlt => ?_, fun _ => hstop⟩
    replace hlt : j < 1 := hlt
    omega

theorem requester_of_mem_frameCommands {q : Nat} {b : BufId} {f : FrameArgs} {i : Instr}
    (hi : i ∈ frameCommands q b f) : i.requester = some q := by
  simp only [frameCommands, List.mem_cons, List.not_mem_nil, or_false] at hi
  rcases hi with rfl | rfl | rfl | rfl <;> rfl

/-- Settles O18: the commands that FRAME ran, put in the queue, run to the same state. -/
theorem frameRunsItsFourCommands : Obligations.FrameRunsItsFourCommands := by
  intro s t q b f hq h
  obtain ⟨l, hran, hne, ⟨rest, hcmds⟩, hok, hstop⟩ := execFrame_ran ((exec_frame ..).symm.trans h)
  obtain ⟨hrun, hbefore⟩ := hran.reaches hcmds (fun i => requester_of_mem_frameCommands) hq
  have hlen : 4 = l.length + rest.length := by simpa [frameCommands] using congrArg List.length hcmds
  refine ⟨l.length, List.length_pos_iff.mpr hne, by omega, hrun, fun j hj hlt => ?_, hstop⟩
  rw [← hok j hj hlt]
  exact hbefore j hj hlt

/-! #### SEND and SEND1 (R107, R109) -/

/-- A send of which the first commands ran runs, in the queue, to the same state. -/
theorem runsPrefix_of_ran {s t : State} {l : List (Instr × Result)} {cmds rest : List Instr} {q : Nat}
    (h : Ran s l t) (hcmds : cmds = l.map Prod.fst ++ rest) (hreq : ∀ i ∈ cmds, i.requester = some q)
    (hq : q < s.cfg.numReq) (hne : l ≠ [])
    (hres : ∀ j, 1 ≤ j → j < l.length → (l[j - 1]?).map Prod.snd = some (if j = 1 then .granted else .ok))
    (hend : (l.length = cmds.length ∧ t.lastResult = some .ok) ∨ (l.length = 1 ∧ t.lastResult = some .dropped) ∨
      ((l.length = 3 ∨ l.length = 5) ∧ l.length < cmds.length ∧ ∃ e, t.lastResult = some (.err e))) :
    RunsPrefix s t cmds := by
  obtain ⟨hrun, hbefore⟩ := h.reaches hcmds hreq hq
  refine ⟨l.length, List.length_pos_iff.mpr hne, by simp [hcmds], hrun, fun j hj hlt => ?_, hend⟩
  rw [← hres j hj hlt]
  exact hbefore j hj hlt

theorem requester_of_mem_sendCommands {c : Config} {q : Nat} {v : List U8} {dL dR : U8} {i : Instr}
    (hi : i ∈ sendCommands c q v dL dR) : i.requester = some q := by
  simp only [sendCommands, List.mem_cons, List.not_mem_nil, or_false] at hi
  rcases hi with rfl | rfl | rfl | rfl | rfl | rfl | rfl | rfl <;> rfl

theorem requester_of_mem_sendOneCommands {q : Nat} {f : FrameArgs} {i : Instr}
    (hi : i ∈ sendOneCommands q f) : i.requester = some q := by
  simp only [sendOneCommands, List.mem_cons, List.not_mem_nil, or_false] at hi
  rcases hi with rfl | rfl | rfl | rfl | rfl <;> rfl

section
variable {q : Nat} {s t : State}

theorem acquire_ran_dropped (h : s.transportAttached = false ∨ s.busy = true) :
    Ran s [(.acquire q, .dropped)] { s with reply := some ⟨q, .dropped⟩ } :=
  .one ((exec_acquire q s).trans (execAcquire_dropped h)) rfl

theorem acquire_ran_granted (ha : s.transportAttached = true) (hb : s.busy = false) :
    Ran s [(.acquire q, .granted)] (s.granted q) :=
  .one ((exec_acquire q s).trans (execAcquire_free ha hb)) rfl

/-- CLEAR and FRAME as two commands in a row. -/
theorem clearFrame_ran {b : BufId} {f : FrameArgs} {r : Result} (hq : s.holdsSession q = true)
    (hm : (s.ctx b).stage.midFrame = false) (h : clearFrame q b f s = .next t) (hr : t.lastResult = some r) :
    Ran s [(.clear q b, .ok), (.frame q b f.d f.ox f.oy f.w f.h f.p, r)] t := by
  rw [clearFrame_eq hq hm] at h
  have hclear : exec (.clear q b) s = .next (s.wroteCtx q b Context.reset) := execClear_ok hq hm
  exact .cons hclear (State.wroteCtx_lastResult ..) (.one h hr)

theorem bothFramed_ran {fL fR : FrameArgs} (hL : frameLength s.cfg (pixelCount fL.p) ≤ s.cfg.capacity .tb0)
    (hR : frameLength s.cfg (pixelCount fR.p) ≤ s.cfg.capacity .tb1) :
    Ran (s.bothFramed q fL fR) [(.handoff q .tb0, .ok), (.handoff q .tb1, .ok), (.release q, .ok)]
      (s.bothSent q fL fR) :=
  .cons ((exec_handoff ..).trans (handoff_bothFramed_first hL)) rfl
    (.cons ((exec_handoff ..).trans (handoff_bothFramed_second hR)) rfl
      (.one ((exec_release ..).trans release_bothFramed) rfl))

theorem oneFramed_ran {f : FrameArgs} (hm : s.ctx1.stage.midFrame = false)
    (hf : frameLength s.cfg (pixelCount f.p) ≤ s.cfg.capacity .tb0) :
    Ran (s.firstFramed q f) [(.handoff q .tb0, .ok), (.release q, .ok)] (s.oneSent q f) :=
  .cons ((exec_handoff ..).trans (handoff_oneFramed hf)) rfl
    (.one ((exec_release ..).trans (release_oneFramed hm)) rfl)

/-- A SEND of a bitmap of the right size ran its commands up to where it ended. -/
theorem send_runsPrefix {v : List U8} {dL dR : U8} (hq : q < s.cfg.numReq)
    (hquiet : s.busy = false → s.anyMidFrame = false) (hv : v.length = virtualLength s.cfg)
    (h : execSend q v dL dR s = .next t) : RunsPrefix s t (sendCommands s.cfg q v dL dR) := by
  rcases execSend_eq_next hv hquiet h with ⟨rfl, hdrop⟩ | ⟨ha, hb, hends⟩
  · exact runsPrefix_of_ran (acquire_ran_dropped hdrop) rfl (fun i => requester_of_mem_sendCommands) hq nofun
      (fun j hj hlt => absurd (show j < 1 from hlt) (by omega)) (.inr (.inl ⟨rfl, rfl⟩))
  · obtain ⟨hm0, hm1⟩ := midFrame_granted q (hquiet hb) (wholeFrame s.cfg (halfFrame s.cfg dL (leftHalf s.cfg v)))
    have hacq := acquire_ran_granted (q := q) ha hb
    cases hends with
    | failedFirst k e cmd hk hx =>
      refine runsPrefix_of_ran (hacq.append (clearFrame_ran (s.granted_holdsSession q) hm0 hx rfl)) rfl
        (fun i => requester_of_mem_sendCommands) hq nofun (fun j hj hlt => ?_)
        (.inr (.inr ⟨.inl rfl, (show 3 < 8 by decide), e, rfl⟩))
      replace hlt : j < 3 := hlt
      interval_cases j <;> rfl
    | failedSecond k e cmd hk hL hx =>
      refine runsPrefix_of_ran (hacq.append ((clearFrame_ran (s.granted_holdsSession q) hm0 hL rfl).append
        (clearFrame_ran (State.firstFramed_holdsSession ..) hm1 hx rfl))) rfl
        (fun i => requester_of_mem_sendCommands) hq nofun (fun j hj hlt => ?_)
        (.inr (.inr ⟨.inr rfl, (show 5 < 8 by decide), e, rfl⟩))
      replace hlt : j < 5 := hlt
      interval_cases j <;> rfl
    | sent hL hR hfitsL hfitsR =>
      refine runsPrefix_of_ran (rest := []) (hacq.append ((clearFrame_ran (s.granted_holdsSession q) hm0 hL rfl).append
        ((clearFrame_ran (State.firstFramed_holdsSession ..) hm1 hR rfl).append (bothFramed_ran hfitsL hfitsR)))) rfl
        (fun i => requester_of_mem_sendCommands) hq nofun (fun j hj hlt => ?_) (.inl ⟨rfl, rfl⟩)
      replace hlt : j < 8 := hlt
      interval_cases j <;> rfl

/-- A SEND1 ran its commands up to where it ended. -/
theorem send1_runsPrefix {f : FrameArgs} (hq : q < s.cfg.numReq) (hquiet : s.busy = false → s.anyMidFrame = false)
    (h : execSend1 q f.p f.d f.ox f.oy f.w f.h s = .next t) : RunsPrefix s t (sendOneCommands q f) := by
  rcases execSend1_eq_next hquiet h with ⟨rfl, hdrop⟩ | ⟨ha, hb, hm, hends⟩
  · exact runsPrefix_of_ran (acquire_ran_dropped hdrop) rfl (fun i => requester_of_mem_sendOneCommands) hq nofun
      (fun j hj hlt => absurd (show j < 1 from hlt) (by omega)) (.inr (.inl ⟨rfl, rfl⟩))
  · obtain ⟨hm0, hm1⟩ := midFrame_granted q hm (wholeFrame s.cfg f)
    have hacq := acquire_ran_granted (q := q) ha hb
    cases hends with
    | failed k e cmd hk hx =>
      refine runsPrefix_of_ran (hacq.append (clearFrame_ran (s.granted_holdsSession q) hm0 hx rfl)) rfl
        (fun i => requester_of_mem_sendOneCommands) hq nofun (fun j hj hlt => ?_)
        (.inr (.inr ⟨.inl rfl, (show 3 < 5 by decide), e, rfl⟩))
      replace hlt : j < 3 := hlt
      interval_cases j <;> rfl
    | sent hx hfits =>
      refine runsPrefix_of_ran (rest := []) (hacq.append ((clearFrame_ran (s.granted_holdsSession q) hm0 hx rfl).append
        (oneFramed_ran hm1 hfits))) rfl (fun i => requester_of_mem_sendOneCommands) hq nofun (fun j hj hlt => ?_)
        (.inl ⟨rfl, rfl⟩)
      replace hlt : j < 5 := hlt
      interval_cases j <;> rfl

end

/-- Settles O26: the commands that the send ran, put in the queue, run to the same state. -/
theorem sendRunsItsCommands : Obligations.SendRunsItsCommands := by
  intro s t q hq hquiet
  exact ⟨fun v dL dR hv h => send_runsPrefix hq hquiet hv ((exec_send ..).symm.trans h),
    fun f h => send1_runsPrefix hq hquiet ((exec_send1 ..).symm.trans h)⟩

end Sys2Proof.Machine
end
